-- ==== Sys2Proof/Word.lean ====
section
/-!
DEFINITION. The words the VC410 puts on its bus and its drive link, and the two fixed-size families (one value per
local head, one value per profile) that its state is made of.
-/
namespace Sys2Proof

/-- One payload byte of a bus frame or of a drive-link message. -/
abbrev Byte := BitVec 8

/-- A 16-bit quantity software reads as a word: jar flags, notice word, notice mask (R117, R178). -/
abbrev Word := BitVec 16

/-- A station address, 0 to 31, as it stands in a frame's header (R159). -/
abbrev Address := BitVec 5

/-- A local head index, 0 to 3 (00_scope, Heads, pockets and angles). -/
abbrev LocalHead := Fin 4

/-- A profile number, 0 to 7 (R174). -/
abbrev ProfileIndex := Fin 8

/-- One value for each of the four local heads. -/
structure PerHead (α : Type) where
  h0 : α
  h1 : α
  h2 : α
  h3 : α
  deriving DecidableEq, Repr

/-- The value of one head. -/
def PerHead.get {α : Type} (p : PerHead α) (i : LocalHead) : α :=
  match i with
  | 0 => p.h0
  | 1 => p.h1
  | 2 => p.h2
  | 3 => p.h3

/-- Replaces the value of one head. -/
def PerHead.set {α : Type} (p : PerHead α) (i : LocalHead) (v : α) : PerHead α :=
  match i with
  | 0 => { p with h0 := v }
  | 1 => { p with h1 := v }
  | 2 => { p with h2 := v }
  | 3 => { p with h3 := v }

/-- Changes the value of one head. -/
def PerHead.upd {α : Type} (p : PerHead α) (i : LocalHead) (f : α → α) : PerHead α :=
  p.set i (f (p.get i))

/-- Changes the values of all four heads. -/
def PerHead.map {α β : Type} (p : PerHead α) (f : α → β) : PerHead β :=
  ⟨f p.h0, f p.h1, f p.h2, f p.h3⟩

/-- The same value for every head. -/
def PerHead.all {α : Type} (v : α) : PerHead α :=
  ⟨v, v, v, v⟩

/-- One value for each of the eight profiles. -/
structure PerProfile (α : Type) where
  p0 : α
  p1 : α
  p2 : α
  p3 : α
  p4 : α
  p5 : α
  p6 : α
  p7 : α
  deriving DecidableEq, Repr

/-- The value of one profile. -/
def PerProfile.get {α : Type} (p : PerProfile α) (k : ProfileIndex) : α :=
  match k with
  | 0 => p.p0
  | 1 => p.p1
  | 2 => p.p2
  | 3 => p.p3
  | 4 => p.p4
  | 5 => p.p5
  | 6 => p.p6
  | 7 => p.p7

/-- Replaces the value of one profile. -/
def PerProfile.set {α : Type} (p : PerProfile α) (k : ProfileIndex) (v : α) : PerProfile α :=
  match k with
  | 0 => { p with p0 := v }
  | 1 => { p with p1 := v }
  | 2 => { p with p2 := v }
  | 3 => { p with p3 := v }
  | 4 => { p with p4 := v }
  | 5 => { p with p5 := v }
  | 6 => { p with p6 := v }
  | 7 => { p with p7 := v }

/-- The same value for every profile. -/
def PerProfile.all {α : Type} (v : α) : PerProfile α :=
  ⟨v, v, v, v, v, v, v, v⟩

end Sys2Proof
end

