-- ==== Sys2Proof/Syntax.lean ====
section
/-!
DEFINITION. The commands of the VC410: one constructor for each row of spec/opcode_table.json. Every command carries
`dt`, the µs that have passed since the command before it (DESIGN CHOICE, log 1). A command that is a received frame
carries the source address of its header and its payload as one number, byte 0 highest (R183).
-/
namespace Sys2Proof

/-- A frame as the LBI has read it from the bus, for the judgement of R166: the header, the length field, the payload
bits that were read, the check that was read, and what the end of the frame showed. -/
structure FrameRead where
  cls : BitVec 3
  kind : BitVec 5
  src : Address
  len : BitVec 4
  payload : List Byte
  crc : BitVec 16
  /-- a dominant bit was read in the end field -/
  endDominant : Bool
  /-- the bus was idle for six bit times before the end field was reached -/
  cutShort : Bool
  deriving DecidableEq, Repr

/-- A sample of the steam-low input, `dt` µs after the command before it: the input has then stood at the level it is
found at for `held` µs (R80). -/
structure StloReading where
  dt : Nat
  held : Nat
  deriving DecidableEq, Repr

/-- A bit of the frame in flight read back, `dt` µs after the command before it: bits count from the start bit as 0, and
the level `true` is recessive (R160). -/
structure BitReading where
  dt : Nat
  bit : Nat
  level : Bool
  deriving DecidableEq, Repr

/-- The commands, in the order of spec/opcode_table.json. -/
inductive Instr where
  /-- FORWARD_COUNT; `jp` and `cp` are the jar-present and cap-present sensors, bit i for local head i. -/
  | forwardCount (dt : Nat) (jp cp : BitVec 4)
  /-- REVERSE_COUNT -/
  | reverseCount (dt : Nat)
  /-- ILLEGAL_QUADRATURE_STEP -/
  | illegalQuadratureStep (dt : Nat)
  /-- ZERO_MARK; the sensors are those a forward correction's events sample. -/
  | zeroMark (dt : Nat) (jp cp : BitVec 4)
  /-- PITCH_TIMEOUT -/
  | pitchTimeout (dt : Nat)
  /-- COLD_STOP -/
  | coldStop (dt : Nat)
  /-- VALVE_CLOSE_TIME of local head `i` -/
  | valveCloseTime (dt : Nat) (i : LocalHead)
  /-- JAR_RECORD -/
  | jarRecord (dt : Nat) (src : Address) (p : BitVec 64)
  /-- DRAW_CLAIM -/
  | drawClaim (dt : Nat) (src : Address) (p : BitVec 32)
  /-- DRAW_END -/
  | drawEnd (dt : Nat) (src : Address) (p : BitVec 8)
  /-- STEAM_HOLD -/
  | steamHold (dt : Nat) (src : Address) (p : BitVec 16)
  /-- CLAIM_RETRY of local head `i` -/
  | claimRetry (dt : Nat) (i : LocalHead)
  /-- DRAW_ENTRY_EXPIRY of the entry of station `src` and global head `head` -/
  | drawEntryExpiry (dt : Nat) (src : Address) (head : Nat)
  /-- HOLD_EXPIRY -/
  | holdExpiry (dt : Nat)
  /-- HOLD_RENEWAL -/
  | holdRenewal (dt : Nat)
  /-- STLO_FALL: a sample that finds the steam-low input low (R80) -/
  | stloFall (r : StloReading)
  /-- STLO_RISE: a sample that finds the steam-low input high (R80) -/
  | stloRise (r : StloReading)
  /-- SILENCE_THRESHOLD -/
  | silenceThreshold (dt : Nat)
  /-- RELISTEN_END -/
  | relistenEnd (dt : Nat)
  /-- DRIVE_GRANT -/
  | driveGrant (dt : Nat)
  /-- DRIVE_TRANSACTION_COMPLETE; `reply` is the six reply bytes, byte 0 highest (R184). -/
  | driveTransactionComplete (dt : Nat) (reply : BitVec 48)
  /-- RESULT_WAIT_EXPIRY of local head `i` -/
  | resultWaitExpiry (dt : Nat) (i : LocalHead)
  /-- VERDICT -/
  | verdict (dt : Nat) (src : Address) (p : BitVec 56)
  /-- VERDICT_EXPIRY -/
  | verdictExpiry (dt : Nat)
  /-- HEAD_RETURN -/
  | headReturn (dt : Nat) (src : Address) (p : BitVec 16)
  /-- LINE_MODE -/
  | lineMode (dt : Nat) (src : Address) (p : BitVec 8)
  /-- LINE_CLEAR -/
  | lineClear (dt : Nat) (src : Address) (p : BitVec 16)
  /-- JOIN -/
  | join (dt : Nat) (src : Address) (p : BitVec 24)
  /-- JOIN_TIMER -/
  | joinTimer (dt : Nat)
  /-- JOIN_WINDOW_PASS -/
  | joinWindowPass (dt : Nat)
  /-- SETUP -/
  | setup (dt : Nat) (src : Address) (p : BitVec 64)
  /-- PROFILE -/
  | profile (dt : Nat) (src : Address) (p : BitVec 64)
  /-- NOTICE_CLEAR -/
  | noticeClear (dt : Nat) (src : Address) (p : BitVec 24)
  /-- NOTICE_MASK_SET -/
  | noticeMaskSet (dt : Nat) (src : Address) (p : BitVec 24)
  /-- NOTICE_MASK_CLEAR -/
  | noticeMaskClear (dt : Nat) (src : Address) (p : BitVec 24)
  /-- COUNTER_REQUEST -/
  | counterRequest (dt : Nat) (src : Address) (p : BitVec 16)
  /-- FRAME_CONTENTION_START -/
  | frameContentionStart (dt : Nat)
  /-- LOST_CONTENTION: a bit of the frame in flight as read back (R160) -/
  | lostContention (r : BitReading)
  /-- TRANSMIT_ERROR: a bit of the frame in flight as read back (R160) -/
  | transmitError (r : BitReading)
  /-- BAD_FRAME_RECEIVED; `r` is the frame as read. -/
  | badFrameReceived (dt : Nat) (r : FrameRead)
  /-- UNOWNED_FRAME of kind code `kind` with its payload bytes -/
  | unownedFrame (dt : Nat) (src : Address) (kind : BitVec 5) (payload : List Byte)
  /-- BUS_IDLE_SEEN -/
  | busIdleSeen (dt : Nat)
  /-- SUPPLY_LOW -/
  | supplyLow (dt : Nat)
  /-- RESET_PIN -/
  | resetPin (dt : Nat)
  /-- RESET_END with the strap pins as they stand: ADDR0–4, HC0–1, FH0–5 (R170) -/
  | resetEnd (dt : Nat) (addr : Address) (hcPins : BitVec 2) (fh : BitVec 6)
  /-- START_BIT -/
  | startBit (dt : Nat)
  /-- CONTENTION_WON -/
  | contentionWon (dt : Nat)
  /-- JOIN_ECHO -/
  | joinEcho (dt : Nat)
  deriving DecidableEq, Repr

end Sys2Proof
end

