-- ==== Sys2Proof/Decode.lean ====
section
/-!
DEFINITION. The decoder of a block without instruction words. No row of spec/opcode_table.json gives bits ("fields": []
and no "fixed"), so no word spells a command (log 24).
-/
namespace Sys2Proof

/-- The command a word spells by the table's bits: none, since no row has bits. -/
def decodeTableWord (_nbits _w : Nat) : Option Instr :=
  none

end Sys2Proof
end

