-- ==== Sys2Proof/Config.lean ====
section
/-!
DEFINITION. The sizes and times the spec fixes for every VC410. The spec leaves no value to an implementation and
calls no result undefined, so there is no free value here.
-/
namespace Sys2Proof.Config

/-- The Record Queue holds at most 32 records (R27). -/
abbrev recordQueueSize : Nat := 32
/-- The draw table holds at most 64 entries (R67). -/
abbrev drawTableSize : Nat := 64
/-- The awaiting-verdict table holds at most 128 entries (R126). -/
abbrev awaitingSize : Nat := 128
/-- The transmit queue holds at most 16 frames (R162). -/
abbrev txQueueSize : Nat := 16
/-- Every counter holds at 65535 (00_scope, Counters). -/
abbrev counterMax : Nat := 65535
/-- The sequence number that means "no record" (00_scope, Sequence numbers). -/
abbrev noSeq : Nat := 65535
/-- A pitch time of 4,000,000 µs is read as "turret stopped" (R10). -/
abbrev turretStopped : Nat := 4000000
/-- One ms of the timebase, in µs. -/
abbrev ms : Nat := 1000
/-- One second, in µs. -/
abbrev second : Nat := 1000000
/-- Flush windows and remaining times are held at 65535 ms (R56, R59). -/
abbrev windowMax : Nat := 65535
/-- A draw-table entry outlasts its announced dwell by 20 ms (R67). -/
abbrev entryMargin : Nat := 20 * ms
/-- The steam claim interval: a refused claim is formed again after 5 ms (R71). -/
abbrev retryWait : Nat := 5 * ms
/-- A dropped hold is renewed after 5 ms (R83). -/
abbrev renewalWait : Nat := 5 * ms
/-- The silence timer sets ISOLATED at 250 ms (R84). -/
abbrev silenceMs : Nat := 250
/-- 250 ms without a frame from another station sets ISOLATED (R84). -/
abbrev silenceLimit : Nat := silenceMs * ms
/-- The silence timer holds at 65535 ms (R168). -/
abbrev silenceMax : Nat := 65535
/-- A level of STLO reaches the samples once the input has held it for 2 ms (R80). -/
abbrev stloFilter : Nat := 2 * ms
/-- The relisten lasts 50 ms (R87). -/
abbrev relistenTime : Nat := 50 * ms
/-- A drive transaction takes 200 µs (R91). -/
abbrev transactionTime : Nat := 200
/-- A RESULT answered BUSY is asked again after 2 ms (R95). -/
abbrev resultWait : Nat := 2 * ms
/-- A JOIN is sent every 100 ms in JOINING (R171). -/
abbrev joinInterval : Nat := 100 * ms
/-- The join window passes 1000 ms after the first JOIN echo (R171). -/
abbrev joinWindow : Nat := 1000 * ms
/-- A head's trim lies from −200 to +200 ms (R134). -/
abbrev trimMax : Int := 200
/-- The consecutive-dud count holds at 15 (R138). -/
abbrev dudMax : Nat := 15
/-- The drive-failure count holds at 3, and reaching 3 benches the head (R102, R103). -/
abbrev failureMax : Nat := 3
/-- The sixteenth no-verdict in a row latches DETECTOR_SILENT (R129). -/
abbrev silentRun : Nat := 16
/-- A headspace above 600 (60.0 mL) is set to 600 (R50). -/
abbrev headspaceMax : Nat := 600
/-- A fill mass above 20000 is set to 20000 (R37). -/
abbrev massMax : Nat := 20000
/-- A fill temperature above 1200 is set to 1200 (R37). -/
abbrev tempMax : Nat := 1200
/-- The start bit and the 13 header bits of a frame are its first 14 bits (R159). -/
abbrev headerBits : Nat := 14
/-- One bit time of the line bus is 4 µs (R159). -/
abbrev bitTime : Nat := 4

end Sys2Proof.Config
end

