-- ==== Sys2Proof/Machine/Flags.lean ====
section
/-!
DEFINITION. The two flag words: the sixteen jar flags (06, section 6.2; 12, flag table) and the sixteen notices
(11, section 11.1).
-/
namespace Sys2Proof.Machine

/-- The sixteen jar flags (06, section 6.2). -/
inductive JarFlag where
  | recordMissing | recordRange | overfill | headspaceHigh | dwellClamped | purgeAdded | shortFlush | noFlush | noCap
  | driveLate | driveFault | underTorque | overTorque | crossThread | jog | aborted
  deriving DecidableEq, Repr

/-- A flag's bit in the report's flag word (12, flag table). -/
def JarFlag.bit : JarFlag → Nat
  | .recordMissing => 0
  | .recordRange => 1
  | .overfill => 2
  | .headspaceHigh => 3
  | .dwellClamped => 4
  | .purgeAdded => 5
  | .shortFlush => 6
  | .noFlush => 7
  | .noCap => 8
  | .driveLate => 9
  | .driveFault => 10
  | .underTorque => 11
  | .overTorque => 12
  | .crossThread => 13
  | .jog => 14
  | .aborted => 15

/-- The sixteen notices (11, section 11.1). -/
inductive Notice where
  | addressConflict | headMapConflict | configInvalid | recordUnderrun | recordOverrun | headBenched | driveFault
  | busIsolated | steamLow | verdictEvicted | detectorSilent | txDrop | encoderFault | lateConfig | cycleAborted
  | badFrame
  deriving DecidableEq, Repr

/-- A notice's position in the latched word and in the mask (11, section 11.1). -/
def Notice.bit : Notice → Nat
  | .addressConflict => 0
  | .headMapConflict => 1
  | .configInvalid => 2
  | .recordUnderrun => 3
  | .recordOverrun => 4
  | .headBenched => 5
  | .driveFault => 6
  | .busIsolated => 7
  | .steamLow => 8
  | .verdictEvicted => 9
  | .detectorSilent => 10
  | .txDrop => 11
  | .encoderFault => 12
  | .lateConfig => 13
  | .cycleAborted => 14
  | .badFrame => 15

/-- The word whose one member is bit `n`. -/
def oneBit (n : Nat) : Word :=
  1#16 <<< n

/-- Whether a jar carries a flag. -/
def hasFlag (w : Word) (f : JarFlag) : Bool :=
  w.getLsbD f.bit

/-- Sets a jar flag; setting a flag already set leaves the set as it was (R114). -/
def setFlag (w : Word) (f : JarFlag) : Word :=
  w ||| oneBit f.bit

/-- Sets a jar flag where a condition holds. -/
def setFlagIf (c : Bool) (w : Word) (f : JarFlag) : Word :=
  if c then setFlag w f else w

/-- Whether a notice stands in a notice word or a mask. -/
def hasNotice (w : Word) (n : Notice) : Bool :=
  w.getLsbD n.bit

/-- The flags that make a jar CAPPED_SUSPECT (R114). -/
def suspectFlags : List JarFlag :=
  [.noFlush, .driveFault, .underTorque, .overTorque, .crossThread, .aborted]

/-- The known-cause flags, which keep a verdict out of the trim and the dud count (R135). -/
def knownCauseFlags : List JarFlag :=
  [.recordMissing, .recordRange, .dwellClamped, .purgeAdded, .shortFlush, .noFlush, .driveFault, .underTorque,
   .overTorque, .crossThread, .jog, .aborted]

/-- Whether a jar's flags carry any of the suspect set (R114). -/
def isSuspect (w : Word) : Bool :=
  suspectFlags.any (hasFlag w)

/-- Whether a jar's flags carry any known-cause flag (R135). -/
def hasKnownCause (w : Word) : Bool :=
  knownCauseFlags.any (hasFlag w)

/-- The two torque flags and CROSS_THREAD of a RESULT reply tested against its profile (R110, R111). -/
def torqueFlags (Tmin Tmax thetaMin torque angle : Nat) (w : Word) : Word :=
  setFlagIf (decide (Tmin ≤ torque) && decide (angle < thetaMin))
    (setFlagIf (decide (Tmax < torque)) (setFlagIf (decide (torque < Tmin)) w .underTorque) .overTorque) .crossThread

end Sys2Proof.Machine
end

