-- ==== Sys2Proof/Machine/Dwell.lean ====
section
/-!
DEFINITION. The Dwell Calculator (03): the infeed call and the claim call. It holds nothing between uses (R48).
-/
namespace Sys2Proof.Machine

/-- The profile fields the infeed call reads (03, section 3.1). -/
structure DwellProfile where
  Vb : Nat
  rho : Nat
  Tref : Nat
  B : Nat
  Kh : Nat
  Kt : Nat
  Pext : Nat
  Dmin : Nat
  Dmax : Nat
  deriving DecidableEq, Repr

/-- What an infeed call is handed besides the profile (03, section 3.1). `window` is a_s − a_fs, in counts. -/
structure DwellInput where
  mass : Nat
  temp : Nat
  recordMissing : Bool
  trim : Int
  purgePending : Bool
  tPitch : Nat
  window : Nat
  pc : Nat
  deriving DecidableEq, Repr

/-- What an infeed call returns. -/
structure DwellResult where
  dwell : Nat
  window : Nat
  flags : Word
  deriving DecidableEq, Repr

/-- The fill volume v = ⌊m × 1000 / ρ⌋ (R49). -/
def fillVolume (m rho : Nat) : Nat :=
  m * 1000 / rho

/-- The headspace before its clamp; 0 for a jar with RECORD_MISSING (R49, R51). -/
def rawHeadspace (p : DwellProfile) (i : DwellInput) : Nat :=
  if i.recordMissing then 0 else p.Vb - fillVolume i.mass p.rho

/-- The headspace h (R50). -/
def headspace (p : DwellProfile) (i : DwellInput) : Nat :=
  min (rawHeadspace p i) Config.headspaceMax

/-- The headspace term d_h (R52). -/
def headspaceTerm (p : DwellProfile) (i : DwellInput) : Nat :=
  headspace p i * p.Kh / 64

/-- The temperature term d_t (R53). -/
def temperatureTerm (p : DwellProfile) (i : DwellInput) : Nat :=
  (p.Tref - i.temp) * p.Kt / 32

/-- The raw dwell d_raw, with the cold purge extension (R54). -/
def rawDwell (p : DwellProfile) (i : DwellInput) : Int :=
  (p.B : Int) + headspaceTerm p i + temperatureTerm p i + i.trim + (if i.purgePending then (p.Pext : Int) else 0)

/-- A value clamped to [lo, hi] (00_scope, Arithmetic). -/
def clamp (lo hi v : Int) : Int :=
  if v < lo then lo else if hi < v then hi else v

/-- The dwell after the clamp to [Dmin, Dmax] (R55). -/
def clampedDwell (p : DwellProfile) (i : DwellInput) : Nat :=
  (clamp p.Dmin p.Dmax (rawDwell p i)).toNat

/-- A time in ms that a turret with pitch time `tPitch` needs for `k` counts, held at 65535, and 65535 where the turret
is read as stopped (R56, R57, R59). -/
def travelTime (k tPitch pc : Nat) : Nat :=
  if Config.turretStopped ≤ tPitch then Config.windowMax else min Config.windowMax (k * tPitch / (pc * 1000))

/-- The flush window W (R56, R57). -/
def flushWindow (i : DwellInput) : Nat :=
  travelTime i.window i.tPitch i.pc

/-- The flags the infeed call sets (R49, R50, R51, R54, R55, R58). -/
def dwellFlags (p : DwellProfile) (i : DwellInput) : Word :=
  let w0 : Word := 0
  let w1 := setFlagIf (!i.recordMissing && decide (p.Vb ≤ fillVolume i.mass p.rho)) w0 .overfill
  let w2 := setFlagIf (decide (Config.headspaceMax < rawHeadspace p i)) w1 .headspaceHigh
  let w3 := setFlagIf i.purgePending w2 .purgeAdded
  let w4 := setFlagIf (decide (clamp p.Dmin p.Dmax (rawDwell p i) ≠ rawDwell p i)) w3 .dwellClamped
  setFlagIf (decide (flushWindow i < clampedDwell p i)) w4 .shortFlush

/-- The infeed call: dwell d after the window cut, flush window W and flags (R48 to R58). -/
def infeedCall (p : DwellProfile) (i : DwellInput) : DwellResult :=
  { dwell := min (clampedDwell p i) (flushWindow i), window := flushWindow i, flags := dwellFlags p i }

/-- The counts from the furthest position to a head's seat position: k = (g × pc + a_s − x_f) mod E (R59). -/
def countsTo (E target furthest : Nat) : Nat :=
  (target % E + E - furthest % E) % E

/-- The claim call: the smaller of d and R where it is Dmin or more, and no claim otherwise (R60). -/
def claimCall (d Dmin R : Nat) : Option Nat :=
  if Dmin ≤ min d R then some (min d R) else none

/-- The trim step Δ: the error times G over 256, rounded toward zero and clamped to [−Δmax, +Δmax] (R136). -/
def trimStep (target depth G stepMax : Nat) : Int :=
  clamp (-(stepMax : Int)) stepMax (Int.tdiv (((target : Int) - depth) * G) 256)

/-- The trim after an eligible verdict (R136). -/
def trimAfter (trim : Int) (target depth G stepMax : Nat) : Int :=
  clamp (-Config.trimMax) Config.trimMax (trim + trimStep target depth G stepMax)

end Sys2Proof.Machine
end

