-- ==== Sys2Proof/Machine/Frames.lean ====
section
/-!
DEFINITION. Bus frames as bits: the kind table of 12_frame_layouts, the frame check of R159 and the judgement of R166.
-/
namespace Sys2Proof.Machine

/-- The kinds of frame the part knows (12_frame_layouts, section 12.1). -/
inductive FrameKind where
  | steamHold | drawClaim | drawEnd | lineMode | lineClear | jarRecord | verdict | jarReport | headState
  | headReturn | join | setup | profile | notice | noticeClear | noticeMaskSet | noticeMaskClear
  | counterRequest | counterReply
  deriving DecidableEq, Repr

/-- The kind code of the header's kind field (12.1). -/
def FrameKind.code : FrameKind → Nat
  | .steamHold => 1
  | .drawClaim => 2
  | .drawEnd => 3
  | .lineMode => 4
  | .lineClear => 5
  | .jarRecord => 6
  | .verdict => 7
  | .jarReport => 8
  | .headState => 9
  | .headReturn => 10
  | .join => 11
  | .setup => 12
  | .profile => 13
  | .notice => 14
  | .noticeClear => 15
  | .noticeMaskSet => 16
  | .noticeMaskClear => 17
  | .counterRequest => 18
  | .counterReply => 19

/-- The priority class of a kind, 0 highest (R159, 12.1). -/
def FrameKind.cls : FrameKind → Nat
  | .steamHold | .drawClaim | .drawEnd => 0
  | .lineMode | .lineClear => 1
  | .jarRecord => 2
  | .verdict | .jarReport => 3
  | .headState | .headReturn => 4
  | .join | .setup | .profile => 5
  | .notice | .noticeClear | .noticeMaskSet | .noticeMaskClear => 6
  | .counterRequest | .counterReply => 7

/-- The payload bytes of a kind, which are fixed (12.1, R183). -/
def FrameKind.length : FrameKind → Nat
  | .steamHold => 2
  | .drawClaim => 4
  | .drawEnd => 1
  | .lineMode => 1
  | .lineClear => 2
  | .jarRecord => 8
  | .verdict => 7
  | .jarReport => 8
  | .headState => 7
  | .headReturn => 2
  | .join => 3
  | .setup => 8
  | .profile => 8
  | .notice => 4
  | .noticeClear => 3
  | .noticeMaskSet => 3
  | .noticeMaskClear => 3
  | .counterRequest => 2
  | .counterReply => 7

/-- The kind a code names; codes 0 and 20 to 31 name none (12.1). -/
def FrameKind.ofCode (c : Nat) : Option FrameKind :=
  match c with
  | 1 => some .steamHold
  | 2 => some .drawClaim
  | 3 => some .drawEnd
  | 4 => some .lineMode
  | 5 => some .lineClear
  | 6 => some .jarRecord
  | 7 => some .verdict
  | 8 => some .jarReport
  | 9 => some .headState
  | 10 => some .headReturn
  | 11 => some .join
  | 12 => some .setup
  | 13 => some .profile
  | 14 => some .notice
  | 15 => some .noticeClear
  | 16 => some .noticeMaskSet
  | 17 => some .noticeMaskClear
  | 18 => some .counterRequest
  | 19 => some .counterReply
  | _ => none

/-- Whether a kind has an owner at the station; JAR_REPORT, HEAD_STATE, NOTICE and COUNTER_REPLY have none (R167). -/
def FrameKind.owned : FrameKind → Bool
  | .jarReport | .headState | .notice | .counterReply => false
  | .steamHold | .drawClaim | .drawEnd | .lineMode | .lineClear | .jarRecord | .verdict | .headReturn | .join
  | .setup | .profile | .noticeClear | .noticeMaskSet | .noticeMaskClear | .counterRequest => true

/-- The low `n` bits of a number, most significant bit first (R159). -/
def bitsOf : Nat → Nat → List Bool
  | 0, _ => []
  | n + 1, v => v.testBit n :: bitsOf n v

/-- The bits of payload bytes, byte by byte, each most significant bit first (R183). -/
def payloadBits (bs : List Byte) : List Bool :=
  bs.flatMap fun b => bitsOf 8 b.toNat

/-- One step of the division by x¹⁶ + x¹² + x⁵ + 1 (R159). The bit enters at the register's top bit and is not shifted
in at the bottom (DESIGN CHOICE, log 36: the rule gives the start at all ones, not where a bit enters). -/
def crcStep (r : BitVec 16) (b : Bool) : BitVec 16 :=
  if r.getLsbD 15 != b then (r <<< 1) ^^^ 0x1021#16 else r <<< 1

/-- The frame check over a list of bits, the register starting at all ones (R159; where a bit enters: log 36). -/
def crc16 (bits : List Bool) : BitVec 16 :=
  bits.foldl crcStep 0xFFFF#16

/-- The header, length and payload bits of a frame, in the order sent: what the check is computed over (R159). -/
def checkedBits (cls kind src len : Nat) (payload : List Byte) : List Bool :=
  bitsOf 3 cls ++ bitsOf 5 kind ++ bitsOf 5 src ++ bitsOf 4 len ++ payloadBits payload

/-- All the bits of a frame on the bus: start bit, checked bits, check and end field (R159). `false` is dominant. -/
def wireBits (cls kind src : Nat) (payload : List Byte) : List Bool :=
  let c := checkedBits cls kind src payload.length payload
  [false] ++ c ++ bitsOf 16 (crc16 c).toNat ++ List.replicate 6 true

/-- What the LBI finds where it compares a bit it sends with the level it reads back (R160). -/
inductive ReadBack where
  | agrees | lostContention | transmitError
  deriving DecidableEq, Repr

/-- The read-back table of R160, `true` being recessive: a recessive bit read as dominant is a lost contention in the
header and a transmit error after it, and a dominant bit read as recessive is a transmit error in both. -/
def readBack (inHeader sent read : Bool) : ReadBack :=
  if sent = read then .agrees
  else if inHeader && sent then .lostContention
  else .transmitError

/-- How long a frame of `n` payload bytes occupies the bus, in µs (R159). -/
def frameTime (n : Nat) : Nat :=
  (40 + 8 * n) * Config.bitTime

/-- What the LBI finds at the end of a frame it has read (R166). -/
inductive Judgement where
  | malformedLength | crcFailure | overrun | cutShort | valid
  deriving DecidableEq, Repr

/-- The length a frame's kind asks for; a kind the part does not know asks for none (R166). -/
def frameLengthFits (r : FrameRead) : Bool :=
  match FrameKind.ofCode r.kind.toNat with
  | some k => r.len.toNat == k.length
  | none => true

/-- The judgement of a frame at its end, in the order of the table of R166. -/
def judgeFrame (r : FrameRead) : Judgement :=
  if r.len.toNat > 8 then .malformedLength
  else if !frameLengthFits r then .malformedLength
  else if r.crc ≠ crc16 (checkedBits r.cls.toNat r.kind.toNat r.src.toNat r.len.toNat r.payload) then .crcFailure
  else if r.endDominant then .overrun
  else if r.cutShort then .cutShort
  else .valid

/-- Whether a frame was judged bad (R166). -/
def frameBad (r : FrameRead) : Bool :=
  judgeFrame r != .valid

end Sys2Proof.Machine
end

