-- ==== Sys2Proof/Machine/State.lean ====
section
/-!
DEFINITION. The state of a VC410 station, block by block, as the "State held" tables of the spec list it, and the state
right after a reset. Times are in µs on one clock; a running timer is held as the time at which it reaches its end
(log 5).
-/
namespace Sys2Proof.Machine

/-! ## Names -/

/-- The station mode (R147). -/
inductive StationMode where
  | joining | stopped | running | jog
  deriving DecidableEq, Repr

/-- The direction of the last count taken (01, section 1.1). -/
inductive Direction where
  | forward | reverse
  deriving DecidableEq, Repr

/-- The place of a head in its cycle; any phase but `idle` is an open cycle (01, section 1.2). -/
inductive Phase where
  | idle | seated | capHeld | claiming | flushing | pressed | torquing | releasing
  deriving DecidableEq, Repr

/-- Why a head is benched (R103, R139). -/
inductive BenchReason where
  | drive | duds
  deriving DecidableEq, Repr

/-- Whose hold set the hold timer (R78). -/
inductive HoldOrigin where
  | own | peer
  deriving DecidableEq, Repr

/-- The level of the steam-low input as last taken (R80). -/
inductive StloLevel where
  | high | low
  deriving DecidableEq, Repr

/-- The roles a station can join under (00_scope, Stations and roles). -/
inductive Role where
  | filler | capper | detector | panel | header | rejecter
  deriving DecidableEq, Repr

/-- The state a JOIN announces (R171). -/
inductive HeardState where
  | joining | joined
  deriving DecidableEq, Repr

/-- The two reset causes (00_scope, Reset causes). -/
inductive ResetCause where
  | powerOn | pin
  deriving DecidableEq, Repr

/-- The receive state of the LBI (R166). -/
inductive ReceiveState where
  | waitingIdle | idle | receiving
  deriving DecidableEq, Repr

/-- The join window (R171): `running t` passes at time `t`. -/
inductive JoinWindow where
  | notStarted
  | running (passesAt : Nat)
  | passed
  deriving DecidableEq, Repr

/-- The outcome of a jar with its NOT_CAPPED reason, one field of the report (R117). -/
inductive JarOutcome where
  | cappedOk | cappedSuspect | noCap | benched | stopped | aborted
  deriving DecidableEq, Repr

/-- What caused a HEAD_STATE frame (R141). -/
inductive Occasion where
  | bench | ret | answer | jogEnd
  deriving DecidableEq, Repr

/-! ## Turret Timing Unit -/

/-- The TTU (01, section 1.1). -/
structure Ttu where
  /-- position, counts past the zero mark -/
  x : Nat
  referenced : Bool
  dir : Direction
  /-- reverse lag -/
  lag : Nat
  pitchCount : Nat
  /-- pitch start time, µs -/
  pitchStart : Nat
  /-- duration of the last completed pitch, µs -/
  tPitch : Nat
  /-- when the cold-stop timer was last restarted, µs -/
  coldStart : Nat
  coldFired : Bool
  /-- the timer ran out at the moment of a crossing that restarted it first, and that cold stop is still to come (R54,
  log 32) -/
  coldWaits : Bool
  deriving DecidableEq, Repr

/-! ## Record Queue -/

/-- A queued jar record (02, section 2.1); `head` is the capper head c, a global head. -/
structure JarRecord where
  seq : Nat
  pocket : Nat
  head : Nat
  product : ProfileIndex
  mass : Nat
  temp : Nat
  /-- RECORD_RANGE -/
  range : Bool
  deriving DecidableEq, Repr

/-! ## Head Cycle Units -/

/-- One HCU (01, section 1.2), its counters apart. `claimsEnded` says that the cycle makes no further claim
(R24, R60, R73, R143; log 11). -/
structure Head where
  phase : Phase
  bound : Option JarRecord
  profile : ProfileIndex
  dwell : Nat
  window : Nat
  flags : Word
  setupDone : Bool
  claimsEnded : Bool
  valveOpen : Bool
  /-- when the open valve was opened, µs -/
  valveOpenedAt : Nat
  /-- valve-close time, µs -/
  valveCloseAt : Nat
  /-- applied dwell, ms -/
  applied : Nat
  purgePending : Bool
  /-- benched, with its reason -/
  bench : Option BenchReason
  driveFailures : Nat
  deriving DecidableEq, Repr

/-- The counters kept for one head (R120, R146). -/
structure HeadCounters where
  seated : Nat
  cappedOk : Nat
  cappedSuspect : Nat
  notCapped : Nat
  goods : Nat
  duds : Nat
  noVerdicts : Nat
  shortFlushes : Nat
  noFlushes : Nat
  driveFaults : Nat
  deriving DecidableEq, Repr

/-! ## Steam Draw Unit -/

/-- An entry of the draw table (04, section 4.1); `endAt` in µs. -/
structure DrawEntry where
  src : Address
  head : Nat
  units : Nat
  endAt : Nat
  deriving DecidableEq, Repr

/-- Where a head's present claim stands (04, section 4.1). ON_BUS is `onBus false` from the moment its frame is taken as
the frame in flight (R164), and `onBus true` once that frame has won contention (R70; log 10). `retry t` is the wait that
ends at time `t`. -/
inductive ClaimState where
  | none
  | queued
  | onBus (won : Bool)
  | retry (endsAt : Nat)
  deriving DecidableEq, Repr

/-- A head's claim state and claim particulars (04, section 4.1). -/
structure Claim where
  state : ClaimState
  units : Nat
  dwell : Nat
  extension : Bool
  admittedLocally : Bool
  deriving DecidableEq, Repr

/-- The claim state NONE, with no particulars (R64). -/
def Claim.clear : Claim :=
  { state := .none, units := 0, dwell := 0, extension := false, admittedLocally := false }

/-- The SDU (04, section 4.1). `hold`, `renewal` and `relisten` hold the time at which the running timer reaches 0. -/
structure Sdu where
  table : List DrawEntry
  hold : Option Nat
  origin : HoldOrigin
  /-- STLO level taken -/
  stlo : StloLevel
  /-- the level of the STLO input behind its 2 ms filter (R80) -/
  stloInput : StloLevel
  /-- when the last change of the input since the last reset got through the filter (R80) -/
  stloSince : Option Nat
  renewal : Option Nat
  isolated : Bool
  relisten : Option Nat
  claims : PerHead Claim
  deriving DecidableEq, Repr

/-! ## Drive Link Controller -/

/-- A drive request with its particulars (R92). -/
inductive DriveRequest where
  | setup (torque speed limit : Nat)
  | start
  | result
  | stop
  deriving DecidableEq, Repr

/-- The kind of a drive request. -/
inductive DriveKind where
  | setup | start | result | stop
  deriving DecidableEq, Repr

/-- What the DLC holds for one head (05, section 5.1); `resultWait` is the time at which the wait reaches 0. -/
structure DriveSlot where
  pending : Option DriveRequest
  deferred : Option DriveRequest
  resultWait : Option Nat
  deriving DecidableEq, Repr

/-- The transaction on the link (05, section 5.1). -/
structure Transaction where
  head : LocalHead
  request : DriveRequest
  attached : Bool
  endsAt : Nat
  deriving DecidableEq, Repr

/-- The DLC (05, section 5.1). -/
structure Dlc where
  slots : PerHead DriveSlot
  current : Option Transaction
  deriving DecidableEq, Repr

/-! ## Verdict Unit -/

/-- An entry of the awaiting-verdict table (R122); `cappedAt` in µs, `head` global. -/
structure AwaitingEntry where
  seq : Nat
  head : Nat
  profile : ProfileIndex
  applied : Nat
  flags : Word
  cappedAt : Nat
  deriving DecidableEq, Repr

/-- What the VU holds for one head (07, section 7.1), its counters apart. -/
structure VerdictSlot where
  trim : Int
  duds : Nat
  lastDwell : Nat
  trimDue : Bool
  dudDue : Bool
  deriving DecidableEq, Repr

/-- The VU (07, section 7.1). -/
structure Vu where
  awaiting : List AwaitingEntry
  slots : PerHead VerdictSlot
  noVerdictRun : Nat
  deriving DecidableEq, Repr

/-! ## Line Bus Interface -/

/-- The content of a jar report (R117). -/
structure JarReport where
  seq : Nat
  head : Nat
  outcome : JarOutcome
  profile : ProfileIndex
  flags : Word
  torque : Nat
  angle : Nat
  deriving DecidableEq, Repr

/-- The content of a HEAD_STATE frame (R141). -/
structure HeadReport where
  head : Nat
  bench : Option BenchReason
  trim : Int
  duds : Nat
  lastDwell : Nat
  occasion : Occasion
  deriving DecidableEq, Repr

/-- The content of one of the station's own JOIN frames (R171); its role is CAPPER. -/
structure JoinReport where
  first : Nat
  count : Nat
  cause : ResetCause
  heard : HeardState
  deriving DecidableEq, Repr

/-- A NOTICE's content, taken when its header has won contention (R165). -/
structure NoticeContent where
  latched : Word
  mask : Word
  deriving DecidableEq, Repr

/-- The frames the VC410 sends (09, section 9.1). -/
inductive TxFrame where
  | steamHold (q : Nat)
  | drawClaim (head units dwell : Nat)
  | drawEnd (head : Nat)
  | jarReport (r : JarReport)
  | headState (r : HeadReport)
  | join (j : JoinReport)
  | notice (content : Option NoticeContent)
  | counterReply (group v1 v2 v3 : Nat)
  deriving DecidableEq, Repr

/-- A frame waiting in the transmit queue; `age` is the serial number of its hand-in (R162, log 20). -/
structure TxEntry where
  frame : TxFrame
  age : Nat
  deriving DecidableEq, Repr

/-- The frame in flight; `won` once its header has won contention (R160, R165). -/
structure InFlight where
  entry : TxEntry
  won : Bool
  deriving DecidableEq, Repr

/-- The LBI (09, section 9.1), its counters apart. -/
structure Lbi where
  queue : List TxEntry
  inFlight : Option InFlight
  receive : ReceiveState
  /-- this station's own transmit error has counted the frame now on the bus (R166) -/
  errorCounted : Bool
  /-- the serial number the next frame handed in gets (log 20) -/
  nextAge : Nat
  /-- when the silence timer was last set to 0, µs -/
  silenceStart : Nat
  deriving DecidableEq, Repr

/-! ## Station Control -/

/-- The straps as held (R170). -/
structure Straps where
  addr : Address
  hcPins : BitVec 2
  fhPins : BitVec 6
  deriving DecidableEq, Repr

/-- A roster entry (10, section 10.2). -/
structure RosterEntry where
  addr : Address
  role : Role
  first : Nat
  count : Nat
  heard : HeardState
  deriving DecidableEq, Repr

/-- Setup part s0 (R173). -/
structure SetupS0 where
  P : Nat
  E : Nat
  O : Nat
  C : Nat
  Hq : Nat
  deriving DecidableEq, Repr

/-- Setup part s1 (R173): the angles a_c, a_fs and a_s. -/
structure SetupS1 where
  aC : Nat
  aFs : Nat
  aS : Nat
  deriving DecidableEq, Repr

/-- Setup part s2 (R173): the angles a_t and a_r, and Lmax. -/
structure SetupS2 where
  aT : Nat
  aR : Nat
  Lmax : Nat
  deriving DecidableEq, Repr

/-- Setup part s3 (R173). -/
structure SetupS3 where
  Tcold : Nat
  Lv : Nat
  mask : Word
  deriving DecidableEq, Repr

/-- The setup parts, each absent or held (R173). -/
structure SetupParts where
  s0 : Option SetupS0
  s1 : Option SetupS1
  s2 : Option SetupS2
  s3 : Option SetupS3
  deriving DecidableEq, Repr

/-- Profile part p0 (10.3): Vb, ρ, Tref, f. -/
structure ProfileP0 where
  Vb : Nat
  rho : Nat
  Tref : Nat
  f : Nat
  deriving DecidableEq, Repr

/-- Profile part p1 (10.3). -/
structure ProfileP1 where
  B : Nat
  Dmin : Nat
  Dmax : Nat
  Kh : Nat
  deriving DecidableEq, Repr

/-- Profile part p2 (10.3). -/
structure ProfileP2 where
  Kt : Nat
  Pext : Nat
  Tt : Nat
  Tmin : Nat
  deriving DecidableEq, Repr

/-- Profile part p3 (10.3): Tmax, θmin, chuck speed, G. -/
structure ProfileP3 where
  Tmax : Nat
  thetaMin : Nat
  speed : Nat
  G : Nat
  deriving DecidableEq, Repr

/-- Profile part p4 (10.3): δ*, Δmax, Nb. -/
structure ProfileP4 where
  target : Nat
  stepMax : Nat
  Nb : Nat
  deriving DecidableEq, Repr

/-- The parts of one profile, each absent or held (R174). -/
structure ProfileParts where
  p0 : Option ProfileP0
  p1 : Option ProfileP1
  p2 : Option ProfileP2
  p3 : Option ProfileP3
  p4 : Option ProfileP4
  deriving DecidableEq, Repr

/-- SC (08, 10, 11), its statuses and the head-map conflict computed from what it holds (log 22). -/
structure Sc where
  mode : StationMode
  /-- a reset has begun and has not ended -/
  inReset : Bool
  /-- the supply has been below its threshold since the last reset ended (R170) -/
  supplyLow : Bool
  cause : ResetCause
  straps : Straps
  roster : List RosterEntry
  setupParts : SetupParts
  profiles : PerProfile ProfileParts
  /-- when the running JOIN timer reaches 0, µs -/
  joinTimer : Option Nat
  window : JoinWindow
  addressConflict : Bool
  /-- the latched notice word -/
  latched : Word
  /-- the notice mask, 1 masks -/
  mask : Word
  deriving DecidableEq, Repr

/-- The station counters (R47, R71, R146, R163, R166). -/
structure Counters where
  badFrames : Nat
  txDrops : Nat
  underruns : Nat
  overruns : Nat
  duplicates : Nat
  lateRecords : Nat
  surplus : Nat
  orphans : Nat
  badRecords : Nat
  evictions : Nat
  lateVerdicts : Nat
  mismatches : Nat
  claimsRefused : Nat
  deriving DecidableEq, Repr

/-! ## The station -/

/-- A VC410 station with the commands that wait for it. -/
structure State where
  /-- commands waiting, first in, first out -/
  pending : List Instr
  /-- the station's clock, µs -/
  now : Nat
  ttu : Ttu
  heads : PerHead Head
  rq : List JarRecord
  sdu : Sdu
  dlc : Dlc
  vu : Vu
  lbi : Lbi
  sc : Sc
  counters : Counters
  headCounters : PerHead HeadCounters
  deriving DecidableEq, Repr

/-- What stops the machine with a fault: nothing. The spec describes no event that stops the part; what it calls faults
are notices and counters. Nobody raises a fault, which is safe. -/
inductive Fault where
  deriving DecidableEq, Repr

/-- Why a command has no meaning. -/
inductive Refusal where
  /-- Raised by an arm of `exec` whose command has no meaning yet; safe. No arm raises it now. -/
  | notModelled (mnemonic : String)
  deriving DecidableEq, Repr

/-! ## Reset values -/

/-- The TTU's values after either reset and on leaving JOINING (R1). -/
def Ttu.atReset (now : Nat) : Ttu :=
  { x := 0, referenced := false, dir := .forward, lag := 0, pitchCount := 0, pitchStart := 0,
    tPitch := Config.turretStopped, coldStart := now, coldFired := false, coldWaits := false }

/-- A head with no open cycle, as after power-on (R13). -/
def Head.atPowerOn : Head :=
  { phase := .idle, bound := none, profile := 0, dwell := 0, window := 0, flags := 0, setupDone := false,
    claimsEnded := false, valveOpen := false, valveOpenedAt := 0, valveCloseAt := 0, applied := 0,
    purgePending := true, bench := none, driveFailures := 0 }

/-- A head's counters at 0 (R121, R146). -/
def HeadCounters.zero : HeadCounters :=
  { seated := 0, cappedOk := 0, cappedSuspect := 0, notCapped := 0, goods := 0, duds := 0, noVerdicts := 0,
    shortFlushes := 0, noFlushes := 0, driveFaults := 0 }

/-- The SDU's values after either reset and on leaving JOINING (R64). -/
def Sdu.atReset : Sdu :=
  { table := [], hold := none, origin := .peer, stlo := .high, stloInput := .high, stloSince := none, renewal := none,
    isolated := false, relisten := none, claims := .all .clear }

/-- A head's place in the DLC with nothing requested (R90). -/
def DriveSlot.empty : DriveSlot :=
  { pending := none, deferred := none, resultWait := none }

/-- The DLC's values after either reset and on leaving JOINING (R90). -/
def Dlc.atReset : Dlc :=
  { slots := .all .empty, current := none }

/-- What the VU holds for a head after power-on (R125). -/
def VerdictSlot.atPowerOn : VerdictSlot :=
  { trim := 0, duds := 0, lastDwell := 0, trimDue := false, dudDue := false }

/-- The VU after power-on (R125). -/
def Vu.atPowerOn : Vu :=
  { awaiting := [], slots := .all .atPowerOn, noVerdictRun := 0 }

/-- The LBI after either reset (R169); `age` is the model's next serial number (log 20). -/
def Lbi.atReset (now age : Nat) : Lbi :=
  { queue := [], inFlight := none, receive := .waitingIdle, errorCounted := false, nextAge := age,
    silenceStart := now }

/-- The own roster entry (10, section 10.2). -/
def Straps.ownEntry (s : Straps) : RosterEntry :=
  { addr := s.addr, role := .capper, first := s.fhPins.toNat, count := s.hcPins.toNat + 1, heard := .joining }

/-- No setup part held (10, section 10.2). -/
def SetupParts.absent : SetupParts :=
  { s0 := none, s1 := none, s2 := none, s3 := none }

/-- No part of a profile held (10, section 10.2). -/
def ProfileParts.absent : ProfileParts :=
  { p0 := none, p1 := none, p2 := none, p3 := none, p4 := none }

/-- SC after either reset: in JOINING, the straps read, everything of the line forgotten, all notices clear and masked
(R147, R170, R178; 10, section 10.2). -/
def Sc.atReset (cause : ResetCause) (straps : Straps) : Sc :=
  { mode := .joining, inReset := false, supplyLow := false, cause := cause, straps := straps,
    roster := [straps.ownEntry], setupParts := .absent, profiles := .all .absent, joinTimer := none,
    window := .notStarted, addressConflict := false, latched := 0, mask := 0xFFFF }

/-- The station counters at 0 (11, section 11.3). -/
def Counters.zero : Counters :=
  { badFrames := 0, txDrops := 0, underruns := 0, overruns := 0, duplicates := 0, lateRecords := 0, surplus := 0,
    orphans := 0, badRecords := 0, evictions := 0, lateVerdicts := 0, mismatches := 0, claimsRefused := 0 }

/-- A station right after a POWER_ON reset has ended at time `now` with the straps `straps`. -/
def State.atPowerOn (now : Nat) (straps : Straps) : State :=
  { pending := [], now := now, ttu := .atReset now, heads := .all .atPowerOn, rq := [], sdu := .atReset,
    dlc := .atReset, vu := .atPowerOn, lbi := .atReset now 0, sc := .atReset .powerOn straps, counters := .zero,
    headCounters := .all .zero }

/-- The machine right after reset: a POWER_ON reset has ended at time 0. The strap pins are all low, which is the
model's choice (DESIGN CHOICE, log 6). -/
def State.reset : State :=
  State.atPowerOn 0 { addr := 0, hcPins := 0, fhPins := 0 }

end Sys2Proof.Machine
end

