-- ==== Sys2Proof/Machine/Layouts.lean ====
section
/-!
DEFINITION. The payload the part sends for each of its frames (12, section 12.1, R183), and the frame as another
station reads it.
-/
namespace Sys2Proof.Machine

/-- One byte of a payload. -/
def byteOf (v : Nat) : Byte := BitVec.ofNat 8 v

/-- A field of two bytes, high byte first (R183). -/
def wordBytes (v : Nat) : List Byte := [byteOf (v / 256), byteOf v]

/-- A signed field of two bytes, two's complement (R183). -/
def signedBytes (v : Int) : List Byte := wordBytes (BitVec.ofInt 16 v).toNat

/-- The outcome codes of a jar report (12, JAR_REPORT). -/
def JarOutcome.code : JarOutcome → Nat
  | .cappedOk => 0
  | .cappedSuspect => 1
  | .noCap => 2
  | .benched => 3
  | .stopped => 4
  | .aborted => 5

/-- The occasion codes of a HEAD_STATE (12, HEAD_STATE). -/
def Occasion.code : Occasion → Nat
  | .bench => 0
  | .ret => 1
  | .answer => 2
  | .jogEnd => 3

/-- The state bit and the reason code of a HEAD_STATE (12, HEAD_STATE). -/
def benchCode : Option BenchReason → Nat
  | none => 0
  | some .drive => 1 + 1 * 2
  | some .duds => 1 + 2 * 2

/-- The reset-cause bit of a JOIN (12, JOIN). -/
def ResetCause.code : ResetCause → Nat
  | .powerOn => 0
  | .pin => 1

/-- The state bit of a JOIN (12, JOIN). -/
def HeardState.code : HeardState → Nat
  | .joining => 0
  | .joined => 1

/-- The 24-bit group that ends a jar report: outcome, profile, head, turn angle (12, JAR_REPORT). -/
def JarReport.group (r : JarReport) : Nat :=
  r.outcome.code * 2 ^ 21 + r.profile.val * 2 ^ 18 + r.head * 2 ^ 12 + r.angle

/-- The kind of a frame the part sends. -/
def TxFrame.kind : TxFrame → FrameKind
  | .steamHold _ => .steamHold
  | .drawClaim _ _ _ => .drawClaim
  | .drawEnd _ => .drawEnd
  | .jarReport _ => .jarReport
  | .headState _ => .headState
  | .join _ => .join
  | .notice _ => .notice
  | .counterReply _ _ _ _ => .counterReply

/-- The class of a frame is the class of its kind (R159). -/
def TxFrame.cls (f : TxFrame) : Nat :=
  f.kind.cls

/-- The payload bytes of a frame. A NOTICE whose header has not won contention has no content yet (R165). -/
def TxFrame.payload : TxFrame → List Byte
  | .steamHold q => wordBytes q
  | .drawClaim head units dwell => [byteOf head, byteOf units] ++ wordBytes dwell
  | .drawEnd head => [byteOf head]
  | .jarReport r =>
    wordBytes r.seq ++ wordBytes r.flags.toNat ++ [byteOf r.torque]
      ++ [byteOf (r.group / 2 ^ 16), byteOf (r.group / 2 ^ 8), byteOf r.group]
  | .headState r =>
    [byteOf r.head, byteOf (benchCode r.bench + r.occasion.code * 8)] ++ signedBytes r.trim ++ [byteOf r.duds]
      ++ wordBytes r.lastDwell
  | .join j => [byteOf (1 + j.heard.code * 8 + j.cause.code * 16), byteOf j.first, byteOf j.count]
  | .notice (some c) => wordBytes c.latched.toNat ++ wordBytes c.mask.toNat
  | .notice none => wordBytes 0 ++ wordBytes 0
  | .counterReply group v1 v2 v3 => [byteOf group] ++ wordBytes v1 ++ wordBytes v2 ++ wordBytes v3

/-- The frame as a station that receives it undisturbed reads it (R159, R166). -/
def TxFrame.asRead (f : TxFrame) (src : Address) : FrameRead :=
  { cls := BitVec.ofNat 3 f.cls, kind := BitVec.ofNat 5 f.kind.code, src := src,
    len := BitVec.ofNat 4 f.payload.length, payload := f.payload,
    crc := crc16 (checkedBits f.cls f.kind.code src.toNat f.payload.length f.payload),
    endDominant := false, cutShort := false }

end Sys2Proof.Machine
end

