-- ==== Sys2Proof/Machine/Operands.lean ====
section
/-!
DEFINITION. The fields of every payload the part reads (12, section 12.1, R183), the drive's reply (R184), and the
reading of the encoder's channels (R2). A payload is one number with byte 0 highest; unused bits are not looked at.
-/
namespace Sys2Proof.Machine

/-- The `len` bits of a payload whose lowest bit is bit `lo`, as a number. -/
def field {n : Nat} (p : BitVec n) (lo len : Nat) : Nat :=
  (p.extractLsb' lo len).toNat

/-! ## Encoder channels -/

/-- What a pair of channel samples gives (R2, R3). -/
inductive CountKind where
  | none | forward | reverse | illegal
  deriving DecidableEq, Repr

/-- The next channel pair in the forward direction, A written first: 00, 10, 11, 01 and back to 00 (R2). -/
def nextPair : BitVec 2 → BitVec 2
  | 0b00#2 => 0b10#2
  | 0b10#2 => 0b11#2
  | 0b11#2 => 0b01#2
  | _ => 0b00#2

/-- The row a change of the channel pair belongs to: FORWARD_COUNT, REVERSE_COUNT or ILLEGAL_QUADRATURE_STEP (R2, R3). -/
def classifyPair (before after : BitVec 2) : CountKind :=
  if after = before then .none
  else if after = nextPair before then .forward
  else if before = nextPair after then .reverse
  else .illegal

/-- Sensor input of a local head, bit i for head i (12.3, JP0–JP3 and CP0–CP3). -/
def sensor (w : BitVec 4) (i : LocalHead) : Bool :=
  w.getLsbD i.val

/-! ## Frames taken from the bus -/

/-- JAR_RECORD: seq. -/
def jarSeq (p : BitVec 64) : Nat := field p 48 16
/-- JAR_RECORD: filler pocket f. -/
def jarPocket (p : BitVec 64) : Nat := field p 40 8
/-- JAR_RECORD: product code. -/
def jarProduct (p : BitVec 64) : Nat := field p 32 8
/-- JAR_RECORD: fill mass m. -/
def jarMass (p : BitVec 64) : Nat := field p 16 16
/-- JAR_RECORD: fill temperature T. -/
def jarTemp (p : BitVec 64) : Nat := field p 0 16

/-- DRAW_CLAIM: global head. -/
def claimHead (p : BitVec 32) : Nat := field p 24 8
/-- DRAW_CLAIM: flow units. -/
def claimUnits (p : BitVec 32) : Nat := field p 16 8
/-- DRAW_CLAIM: claim dwell. -/
def claimDwell (p : BitVec 32) : Nat := field p 0 16

/-- VERDICT: seq. -/
def verdictSeq (p : BitVec 56) : Nat := field p 40 16
/-- VERDICT: capper address. -/
def verdictCapper (p : BitVec 56) : Nat := field p 32 8
/-- VERDICT: global head. -/
def verdictHead (p : BitVec 56) : Nat := field p 24 8
/-- VERDICT: dome depth δ. -/
def verdictDepth (p : BitVec 56) : Nat := field p 0 16

/-- The detector's finding (R130). -/
inductive Finding where
  | good | dud | unreadable
  deriving DecidableEq, Repr

/-- VERDICT: the verdict code; a code other than 0 to 2 is taken as UNREADABLE (R130). -/
def verdictFinding (p : BitVec 56) : Finding :=
  match field p 16 8 with
  | 0 => .good
  | 1 => .dud
  | _ => .unreadable

/-- HEAD_RETURN: global head, 255 for all owned heads. -/
def returnTarget (p : BitVec 16) : Nat := field p 8 8
/-- HEAD_RETURN: trim-reset option. -/
def returnTrim (p : BitVec 16) : Bool := p.getLsbD 0

/-- LINE_MODE: the mode a code names; a code other than 1 to 3 names none (R148). -/
def lineModeOf (p : BitVec 8) : Option StationMode :=
  match p.toNat with
  | 1 => some .running
  | 2 => some .stopped
  | 3 => some .jog
  | _ => none

/-- LINE_CLEAR: target address. -/
def clearTarget (p : BitVec 16) : Nat := field p 8 8
/-- LINE_CLEAR: counters option. -/
def clearCounters (p : BitVec 16) : Bool := p.getLsbD 0
/-- LINE_CLEAR: trims option. -/
def clearTrims (p : BitVec 16) : Bool := p.getLsbD 1

/-- NOTICE_CLEAR, NOTICE_MASK_SET, NOTICE_MASK_CLEAR: target address. -/
def noticeTarget (p : BitVec 24) : Nat := field p 16 8
/-- NOTICE_CLEAR, NOTICE_MASK_SET, NOTICE_MASK_CLEAR: word. -/
def noticeWord (p : BitVec 24) : Word := p.extractLsb' 0 16

/-- COUNTER_REQUEST: target address. -/
def requestTarget (p : BitVec 16) : Nat := field p 8 8
/-- COUNTER_REQUEST: group. -/
def requestGroup (p : BitVec 16) : Nat := field p 0 8

/-- The role a role code names; codes 6 and 7 name none (R183). -/
def roleOfCode (c : Nat) : Option Role :=
  match c with
  | 0 => some .filler
  | 1 => some .capper
  | 2 => some .detector
  | 3 => some .panel
  | 4 => some .header
  | 5 => some .rejecter
  | _ => none

/-- JOIN: the role (12, JOIN layout). -/
def joinRole (p : BitVec 24) : Option Role := roleOfCode (field p 16 3)
/-- JOIN: the state. -/
def joinHeard (p : BitVec 24) : HeardState := if p.getLsbD 19 then .joined else .joining
/-- JOIN: first head. -/
def joinFirst (p : BitVec 24) : Nat := field p 8 8
/-- JOIN: head count. -/
def joinCount (p : BitVec 24) : Nat := field p 0 8

/-- SETUP: part number. -/
def setupPart (p : BitVec 64) : Nat := field p 56 8
/-- SETUP part s0: P (1), E (2), O (1), C (1), Hq (2). -/
def setupS0 (p : BitVec 64) : SetupS0 :=
  { P := field p 48 8, E := field p 32 16, O := field p 24 8, C := field p 16 8, Hq := field p 0 16 }
/-- SETUP part s1: a_c (2), a_fs (2), a_s (2). -/
def setupS1 (p : BitVec 64) : SetupS1 :=
  { aC := field p 40 16, aFs := field p 24 16, aS := field p 8 16 }
/-- SETUP part s2: a_t (2), a_r (2), Lmax (1). -/
def setupS2 (p : BitVec 64) : SetupS2 :=
  { aT := field p 40 16, aR := field p 24 16, Lmax := field p 16 8 }
/-- SETUP part s3: Tcold (2), Lv (2), notice mask (2). -/
def setupS3 (p : BitVec 64) : SetupS3 :=
  { Tcold := field p 40 16, Lv := field p 24 16, mask := p.extractLsb' 8 16 }

/-- PROFILE: profile number. -/
def profileNumber (p : BitVec 64) : Nat := field p 60 4
/-- PROFILE: part number. -/
def profilePart (p : BitVec 64) : Nat := field p 56 4
/-- PROFILE part p0: Vb (2), ρ (2), Tref (2), f (1). -/
def profileP0 (p : BitVec 64) : ProfileP0 :=
  { Vb := field p 40 16, rho := field p 24 16, Tref := field p 8 16, f := field p 0 8 }
/-- PROFILE part p1: B (2), Dmin (2), Dmax (2), Kh (1). -/
def profileP1 (p : BitVec 64) : ProfileP1 :=
  { B := field p 40 16, Dmin := field p 24 16, Dmax := field p 8 16, Kh := field p 0 8 }
/-- PROFILE part p2: Kt (1), Pext (2), Tt (2), Tmin (2). -/
def profileP2 (p : BitVec 64) : ProfileP2 :=
  { Kt := field p 48 8, Pext := field p 32 16, Tt := field p 16 16, Tmin := field p 0 16 }
/-- PROFILE part p3: Tmax (2), θmin (2), chuck speed (2), G (1). -/
def profileP3 (p : BitVec 64) : ProfileP3 :=
  { Tmax := field p 40 16, thetaMin := field p 24 16, speed := field p 8 16, G := field p 0 8 }
/-- PROFILE part p4: δ* (2), Δmax (1), Nb (1). -/
def profileP4 (p : BitVec 64) : ProfileP4 :=
  { target := field p 40 16, stepMax := field p 32 8, Nb := field p 24 8 }

/-! ## The drive's reply -/

/-- Byte `k` of a drive-link reply, byte 0 highest (R184). -/
def replyByte (r : BitVec 48) (k : Nat) : Nat := field r (8 * (5 - k)) 8

/-- The six reply bytes sum to 0 modulo 256 (R94). -/
def replySumOk (r : BitVec 48) : Bool :=
  (replyByte r 0 + replyByte r 1 + replyByte r 2 + replyByte r 3 + replyByte r 4 + replyByte r 5) % 256 == 0

/-- The kind code a reply echoes (R184). -/
def replyKind (r : BitVec 48) : Nat := field r 44 4
/-- The status code of a reply: 1 READY, 2 BUSY, 3 FAULT (R184). -/
def replyStatus (r : BitVec 48) : Nat := field r 41 3
/-- The done flag of a reply (R184). -/
def replyDone (r : BitVec 48) : Bool := r.getLsbD 40
/-- The peak torque of a reply, 0.01 N·m (R184). -/
def replyTorque (r : BitVec 48) : Nat := field r 24 16
/-- The turn angle of a reply, degrees (R184). -/
def replyAngle (r : BitVec 48) : Nat := field r 8 16

/-- The kind of a drive request. -/
def DriveRequest.kind : DriveRequest → DriveKind
  | .setup _ _ _ => .setup
  | .start => .start
  | .result => .result
  | .stop => .stop

/-- The kind code of a drive-link command (R184). -/
def DriveKind.code : DriveKind → Nat
  | .setup => 1
  | .start => 2
  | .result => 3
  | .stop => 4

/-- The order in which the arbiter serves the kinds, 0 first: STOP, START, SETUP, RESULT (R99). -/
def DriveKind.rank : DriveKind → Nat
  | .stop => 0
  | .start => 1
  | .setup => 2
  | .result => 3

/-- The 32-bit group of a drive-link command: a SETUP's particulars, 0 for the other kinds (R184). -/
def DriveRequest.group : DriveRequest → Nat
  | .setup torque speed limit => torque * 2 ^ 22 + speed * 2 ^ 12 + limit
  | .start | .result | .stop => 0

/-- The six command bytes: kind code, group, and the checksum that brings their sum to 0 modulo 256 (R91, R184). -/
def DriveRequest.command (r : DriveRequest) : List Byte :=
  let body : List Byte :=
    [BitVec.ofNat 8 r.kind.code, BitVec.ofNat 8 (r.group / 2 ^ 24), BitVec.ofNat 8 (r.group / 2 ^ 16),
     BitVec.ofNat 8 (r.group / 2 ^ 8), BitVec.ofNat 8 r.group]
  body ++ [-(body.foldl (· + ·) 0)]

/-- The class of a completion (R94). -/
inductive ReplyClass where
  | success | busy | failure
  deriving DecidableEq, Repr

/-- The judgement of a reply to a command of kind `k`: checksum, echoed kind, status, in this order (R94). -/
def judgeReply (k : DriveKind) (r : BitVec 48) : ReplyClass :=
  if !replySumOk r then .failure
  else if replyKind r ≠ k.code then .failure
  else match replyStatus r, k with
    | 1, .result => if replyDone r then .success else .busy
    | 1, .setup | 1, .start | 1, .stop => .success
    | 2, .result => .busy
    | _, _ => .failure

end Sys2Proof.Machine
end

