-- ==== Sys2Proof/Machine/Ops.lean ====
section
/-!
DEFINITION. The shared operations over the station's state: what is read from straps, roster and configuration; the
update of one head's part of a block; counters; the transmit queue; notices; claims at rest; the drive requests.
-/
namespace Sys2Proof.Machine

/-! ## Configuration as read -/

/-- The line-wide parameters, all parts together (R173). -/
structure Setup where
  P : Nat
  E : Nat
  O : Nat
  C : Nat
  Hq : Nat
  aC : Nat
  aFs : Nat
  aS : Nat
  aT : Nat
  aR : Nat
  Lmax : Nat
  Tcold : Nat
  Lv : Nat
  mask : Word
  deriving DecidableEq, Repr

/-- The setup put together from its four parts. -/
def Setup.ofParts (a : SetupS0) (b : SetupS1) (c : SetupS2) (d : SetupS3) : Setup :=
  { P := a.P, E := a.E, O := a.O, C := a.C, Hq := a.Hq, aC := b.aC, aFs := b.aFs, aS := b.aS, aT := c.aT, aR := c.aR,
    Lmax := c.Lmax, Tcold := d.Tcold, Lv := d.Lv, mask := d.mask }

/-- The setup where all four parts are held. -/
def SetupParts.whole (s : SetupParts) : Option Setup :=
  match s.s0, s.s1, s.s2, s.s3 with
  | some a, some b, some c, some d => some (.ofParts a b c d)
  | _, _, _, _ => none

/-- What the parameters read as while a part is absent; no block reads them then (R1, log 22). -/
def Setup.unset : Setup :=
  { P := 0, E := 0, O := 0, C := 0, Hq := 0, aC := 0, aFs := 0, aS := 0, aT := 0, aR := 0, Lmax := 0, Tcold := 0,
    Lv := 0, mask := 0 }

/-- Every field lies in its range, and the relations between the fields hold (R173, 10.3). -/
def Setup.valid (s : Setup) (fh hc : Nat) : Bool :=
  decide (8 ≤ s.P ∧ s.P ≤ 64) && decide (128 ≤ s.E ∧ s.E ≤ 65535) && decide (s.O ≤ 63)
    && decide (1 ≤ s.C ∧ s.C ≤ 255) && decide (s.Hq ≤ 65535)
    && decide (1 ≤ s.aC ∧ s.aC ≤ 65535 ∧ 1 ≤ s.aFs ∧ s.aFs ≤ 65535 ∧ 1 ≤ s.aS ∧ s.aS ≤ 65535)
    && decide (1 ≤ s.aT ∧ s.aT ≤ 65535 ∧ 1 ≤ s.aR ∧ s.aR ≤ 65535) && decide (1 ≤ s.Lmax ∧ s.Lmax ≤ 63)
    && decide (1 ≤ s.Tcold ∧ s.Tcold ≤ 65535 ∧ 1 ≤ s.Lv ∧ s.Lv ≤ 65535)
    && decide (s.E % s.P = 0 ∧ 16 ≤ s.E / s.P)
    && decide (s.aC < s.aFs ∧ s.aFs < s.aS ∧ s.aS < s.aT ∧ s.aT < s.aR ∧ s.aR < s.E)
    && decide (s.O ≤ s.P - 1 ∧ s.Lmax ≤ s.P - 1) && decide (fh + hc ≤ s.P)

/-- A whole profile (10.3). -/
structure Profile where
  Vb : Nat
  rho : Nat
  Tref : Nat
  f : Nat
  B : Nat
  Dmin : Nat
  Dmax : Nat
  Kh : Nat
  Kt : Nat
  Pext : Nat
  Tt : Nat
  Tmin : Nat
  Tmax : Nat
  thetaMin : Nat
  speed : Nat
  G : Nat
  target : Nat
  stepMax : Nat
  Nb : Nat
  deriving DecidableEq, Repr

/-- A profile put together from its five parts. -/
def Profile.ofParts (a : ProfileP0) (b : ProfileP1) (c : ProfileP2) (d : ProfileP3) (e : ProfileP4) : Profile :=
  { Vb := a.Vb, rho := a.rho, Tref := a.Tref, f := a.f, B := b.B, Dmin := b.Dmin, Dmax := b.Dmax, Kh := b.Kh,
    Kt := c.Kt, Pext := c.Pext, Tt := c.Tt, Tmin := c.Tmin, Tmax := d.Tmax, thetaMin := d.thetaMin, speed := d.speed,
    G := d.G, target := e.target, stepMax := e.stepMax, Nb := e.Nb }

/-- The profile where all five parts are held. -/
def ProfileParts.whole (p : ProfileParts) : Option Profile :=
  match p.p0, p.p1, p.p2, p.p3, p.p4 with
  | some a, some b, some c, some d, some e => some (.ofParts a b c d e)
  | _, _, _, _, _ => none

/-- What a profile reads as while a part is absent; no block reads it then (R36, log 22). -/
def Profile.unset : Profile :=
  { Vb := 0, rho := 0, Tref := 0, f := 0, B := 0, Dmin := 0, Dmax := 0, Kh := 0, Kt := 0, Pext := 0, Tt := 0, Tmin := 0,
    Tmax := 0, thetaMin := 0, speed := 0, G := 0, target := 0, stepMax := 0, Nb := 0 }

/-- Every field lies in its range, Dmin ≤ Dmax and Tmin ≤ Tt ≤ Tmax (R174, 10.3). -/
def Profile.valid (p : Profile) : Bool :=
  decide (1 ≤ p.Vb ∧ p.Vb ≤ 10000) && decide (1000 ≤ p.rho ∧ p.rho ≤ 2000) && decide (p.Tref ≤ 1200)
    && decide (1 ≤ p.f ∧ p.f ≤ 4) && decide (p.B ≤ 400) && decide (1 ≤ p.Dmin ∧ p.Dmin ≤ 1000)
    && decide (1 ≤ p.Dmax ∧ p.Dmax ≤ 1000) && decide (p.Kh ≤ 255) && decide (p.Kt ≤ 255) && decide (p.Pext ≤ 300)
    && decide (p.Tt ≤ 1000 ∧ p.Tmin ≤ 1000 ∧ p.Tmax ≤ 1000) && decide (p.thetaMin ≤ 720)
    && decide (1 ≤ p.speed ∧ p.speed ≤ 600) && decide (p.G ≤ 255) && decide (p.target ≤ 4000)
    && decide (p.stepMax ≤ 200) && decide (p.Nb ≤ 15) && decide (p.Dmin ≤ p.Dmax)
    && decide (p.Tmin ≤ p.Tt ∧ p.Tt ≤ p.Tmax)

/-- Setup and profile status (R173, R174). -/
inductive ConfigStatus where
  | incomplete | valid | invalid
  deriving DecidableEq, Repr

/-- The head count HC (R170). -/
def State.hc (s : State) : Nat :=
  s.sc.straps.hcPins.toNat + 1

/-- The first global head FH (R170). -/
def State.fh (s : State) : Nat :=
  s.sc.straps.fhPins.toNat

/-- The station's address. -/
def State.addr (s : State) : Address :=
  s.sc.straps.addr

/-- The setup as the blocks read it. -/
def State.setup (s : State) : Setup :=
  s.sc.setupParts.whole.getD .unset

/-- The pitch pc = E/P, in counts. -/
def State.pc (s : State) : Nat :=
  s.setup.E / s.setup.P

/-- The setup status (R173). -/
def State.setupStatus (s : State) : ConfigStatus :=
  match s.sc.setupParts.whole with
  | none => .incomplete
  | some u => if u.valid s.fh s.hc then .valid else .invalid

/-- A profile's status (R174). -/
def ProfileParts.status (p : ProfileParts) : ConfigStatus :=
  match p.whole with
  | none => .incomplete
  | some u => if u.valid then .valid else .invalid

/-- The status of profile `k` (R174). -/
def State.profileStatus (s : State) (k : ProfileIndex) : ConfigStatus :=
  (s.sc.profiles.get k).status

/-- Profile `k` as the blocks read it. -/
def State.profile (s : State) (k : ProfileIndex) : Profile :=
  (s.sc.profiles.get k).whole.getD .unset

/-- The fields of a profile that the Dwell Calculator reads. -/
def Profile.forDwell (p : Profile) : DwellProfile :=
  { Vb := p.Vb, rho := p.rho, Tref := p.Tref, B := p.B, Kh := p.Kh, Kt := p.Kt, Pext := p.Pext, Dmin := p.Dmin,
    Dmax := p.Dmax }

/-- The role the roster lists an address under (00_scope, Stations and roles). -/
def State.roleOf (s : State) (a : Address) : Option Role :=
  (s.sc.roster.find? fun e => e.addr == a).map (·.role)

/-- Ncap: the CAPPER stations in the roster, this station included (R88, 10, section 10.2). -/
def State.ncap (s : State) : Nat :=
  (s.sc.roster.filter fun e => e.role == .capper).length

/-- Whether a roster entry of another CAPPER station shares a head with this station's range (R175). -/
def State.overlaps (s : State) (e : RosterEntry) : Bool :=
  e.addr != s.addr && e.role == .capper && decide (0 < e.count ∧ e.first < s.fh + s.hc ∧ s.fh < e.first + e.count)

/-- A head-map conflict stands (R175). -/
def State.headMapConflict (s : State) : Bool :=
  s.sc.roster.any s.overlaps

/-- The station has joined: STOPPED, RUNNING or JOG (R147). -/
def State.joined (s : State) : Bool :=
  s.sc.mode != .joining

/-- The station is in RUNNING or JOG. -/
def State.capping (s : State) : Bool :=
  s.sc.mode == .running || s.sc.mode == .jog

/-! ## Heads -/

/-- A local head is owned when its index is below HC (00_scope). -/
def State.owns (s : State) (i : LocalHead) : Bool :=
  decide (i.val < s.hc)

/-- The owned local heads, in local head order. -/
def State.owned (s : State) : List LocalHead :=
  ([0, 1, 2, 3] : List LocalHead).filter s.owns

/-- The global head of a local head (00_scope). -/
def State.globalHead (s : State) (i : LocalHead) : Nat :=
  s.fh + i.val

/-- The local head of a global head the station owns (00_scope). -/
def State.localOf (s : State) (g : Nat) : Option LocalHead :=
  if s.fh ≤ g ∧ g < s.fh + s.hc then some (Fin.ofNat 4 (g - s.fh)) else none

/-- One action at each owned head, in local head order. -/
def State.eachOwned (s : State) (act : LocalHead → State → State) : State :=
  s.owned.foldl (fun t i => act i t) s

/-- The HCU of a head. -/
def State.head (s : State) (i : LocalHead) : Head := s.heads.get i
/-- The claim of a head. -/
def State.claim (s : State) (i : LocalHead) : Claim := s.sdu.claims.get i
/-- The DLC's holdings for a head. -/
def State.slot (s : State) (i : LocalHead) : DriveSlot := s.dlc.slots.get i
/-- The VU's holdings for a head. -/
def State.learned (s : State) (i : LocalHead) : VerdictSlot := s.vu.slots.get i

/-- Changes the HCU of a head. -/
def State.updHead (s : State) (i : LocalHead) (f : Head → Head) : State :=
  { s with heads := s.heads.upd i f }
/-- Changes the claim of a head. -/
def State.updClaim (s : State) (i : LocalHead) (f : Claim → Claim) : State :=
  { s with sdu := { s.sdu with claims := s.sdu.claims.upd i f } }
/-- Changes the DLC's holdings for a head. -/
def State.updSlot (s : State) (i : LocalHead) (f : DriveSlot → DriveSlot) : State :=
  { s with dlc := { s.dlc with slots := s.dlc.slots.upd i f } }
/-- Changes the VU's holdings for a head. -/
def State.updLearned (s : State) (i : LocalHead) (f : VerdictSlot → VerdictSlot) : State :=
  { s with vu := { s.vu with slots := s.vu.slots.upd i f } }
/-- Changes the counters of a head. -/
def State.updCounters (s : State) (i : LocalHead) (f : HeadCounters → HeadCounters) : State :=
  { s with headCounters := s.headCounters.upd i f }
/-- Changes the station counters. -/
def State.count (s : State) (f : Counters → Counters) : State :=
  { s with counters := f s.counters }

/-- Sets a flag of the jar at a head (R114). -/
def State.flag (s : State) (i : LocalHead) (f : JarFlag) : State :=
  s.updHead i fun h => { h with flags := setFlag h.flags f }

/-- Sets JOG on the jar at a head when an event of its cycle is taken in JOG (R113). -/
def State.markJog (s : State) (i : LocalHead) : State :=
  if s.sc.mode = .jog then s.flag i .jog else s

/-- A counter increased by one, holding at 65535 (00_scope, Counters). -/
def bump (c : Nat) : Nat := min Config.counterMax (c + 1)

/-- A counter increased by one `n` times, holding at 65535. -/
def bumpBy (n c : Nat) : Nat := min Config.counterMax (c + n)

/-! ## The transmit queue -/

/-- Whether a frame goes ahead of another: a better class, or the same class and an older hand-in (R162). -/
def TxEntry.ahead (a b : TxEntry) : Bool :=
  decide (a.frame.cls < b.frame.cls) || (decide (a.frame.cls = b.frame.cls) && decide (a.age < b.age))

/-- Puts a frame at the place its class and its age give it (R162). -/
def insertTx (e : TxEntry) : List TxEntry → List TxEntry
  | [] => [e]
  | x :: xs => if e.ahead x then e :: x :: xs else x :: insertTx e xs

/-- Places an arriving frame: the queue afterwards, and the frame that is lost at a full queue, which is the youngest
frame of the worst class where that class is worse than the arriving frame's, and otherwise the arriving frame (R163). -/
def placeTx (e : TxEntry) (q : List TxEntry) : List TxEntry × Option TxFrame :=
  if q.length < Config.txQueueSize then (insertTx e q, none)
  else match q.getLast? with
    | some w => if e.frame.cls < w.frame.cls then (insertTx e q.dropLast, some w.frame) else (q, some e.frame)
    | none => (q, some e.frame)

/-- The frame that an arriving frame costs, if any (R163). -/
def State.lostAt (s : State) (e : TxEntry) : Option TxFrame :=
  (placeTx e s.lbi.queue).2

/-- A frame arrives at the queue and a loss is counted as a TX drop (R163). -/
def State.arrive (s : State) (e : TxEntry) : State :=
  { s with
    lbi := { s.lbi with queue := (placeTx e s.lbi.queue).1 },
    counters := { s.counters with
      txDrops := if (s.lostAt e).isSome then bump s.counters.txDrops else s.counters.txDrops } }

/-- A frame with the age of its hand-in at this moment (R162). -/
def State.newEntry (s : State) (f : TxFrame) : TxEntry :=
  { frame := f, age := s.lbi.nextAge }

/-- The hand-in age is used up. -/
def State.nextAge (s : State) : State :=
  { s with lbi := { s.lbi with nextAge := s.lbi.nextAge + 1 } }

/-- Whether a frame is a NOTICE. -/
def TxFrame.isNotice : TxFrame → Bool
  | .notice _ => true
  | .steamHold _ | .drawClaim _ _ _ | .drawEnd _ | .jarReport _ | .headState _ | .join _ | .counterReply _ _ _ _ => false

/-- A NOTICE waits in the transmit queue (R165). -/
def State.noticeWaits (s : State) : Bool :=
  s.lbi.queue.any fun e => e.frame.isNotice

/-- Makes a member of the latched word 1. -/
def State.setLatched (s : State) (n : Notice) : State :=
  { s with sc := { s.sc with latched := s.sc.latched ||| oneBit n.bit } }

/-- Latches TX_DROP after a loss (R163, R178). The NOTICE it may ask for (R179) can itself be lost; that loss finds
TX_DROP latched, so it is counted and nothing more (log 21). -/
def State.latchTxDrop (s : State) : State :=
  if hasNotice s.sc.latched .txDrop then s
  else
    let t := s.setLatched .txDrop
    if hasNotice s.sc.mask .txDrop || t.noticeWaits then t
    else (t.nextAge).arrive (t.newEntry (.notice none))

/-- A head that may hold a claim: in CLAIMING, not benched, its claims not ended (R19, R71; log 11). -/
def State.mayClaim (s : State) (i : LocalHead) : Bool :=
  decide ((s.head i).phase = .claiming) && (s.head i).bench.isNone && !(s.head i).claimsEnded

/-- A claim that was refused or lost: RETRY for 5 ms, or NONE (R71, R74). -/
def State.claimRefused (s : State) (i : LocalHead) : State :=
  if s.mayClaim i then s.updClaim i fun c => { c with state := .retry (s.now + Config.retryWait) }
  else s.updClaim i fun _ => .clear

/-- How the SDU takes the loss of one of the station's class-0 frames (R74). -/
def State.takeLoss (s : State) (f : TxFrame) : State :=
  match f with
  | .drawClaim g _ _ => match s.localOf g with
    | some i => s.claimRefused i
    | none => s
  | .steamHold _ => { s with sdu := { s.sdu with renewal := some (s.now + Config.renewalWait) } }
  | .drawEnd _ | .jarReport _ | .headState _ | .join _ | .notice _ | .counterReply _ _ _ _ => s

/-- A frame arrives at the queue with all that a loss brings (R163, R74). -/
def State.enter (s : State) (e : TxEntry) : State :=
  match s.lostAt e with
  | none => s.arrive e
  | some f => ((s.arrive e).latchTxDrop).takeLoss f

/-- A block hands a frame in (R162). -/
def State.handIn (s : State) (f : TxFrame) : State :=
  (s.nextAge).enter (s.newEntry f)

/-! ## Notices -/

/-- Station Control asks for a NOTICE; where one already waits, nothing is added (R165, R179). -/
def State.requestNotice (s : State) : State :=
  if s.noticeWaits then s else s.handIn (.notice none)

/-- A notice is latched, and an unmasked notice that becomes latched asks for a NOTICE (R178, R179). -/
def State.latch (s : State) (n : Notice) : State :=
  if hasNotice s.sc.latched n then s
  else if hasNotice s.sc.mask n then s.setLatched n
  else (s.setLatched n).requestNotice

/-- The condition of a condition notice; an event notice has none (11, section 11.1). -/
def State.conditionHolds (s : State) (n : Notice) : Bool :=
  match n with
  | .addressConflict => s.sc.addressConflict
  | .headMapConflict => s.headMapConflict
  | .busIsolated => s.sdu.isolated
  | .steamLow => s.sdu.stlo == .low
  | .configInvalid | .recordUnderrun | .recordOverrun | .headBenched | .driveFault | .verdictEvicted | .detectorSilent
  | .txDrop | .encoderFault | .lateConfig | .cycleAborted | .badFrame => false

/-- A condition notice that a clear removed is latched again where its condition still holds (R178). -/
def State.relatch (removed : Word) (s : State) (n : Notice) : State :=
  if hasNotice removed n && s.conditionHolds n then s.latch n else s

/-- Clears the notices of a word, then checks the condition notices removed (R178). -/
def State.clearNotices (s : State) (w : Word) : State :=
  let t : State := { s with sc := { s.sc with latched := s.sc.latched &&& ~~~w } }
  [Notice.addressConflict, .headMapConflict, .busIsolated, .steamLow].foldl (State.relatch (s.sc.latched &&& w)) t

/-- The mask becomes `m`; a notice that is latched and was masked before and is not now asks for a NOTICE (R179). -/
def State.changeMask (s : State) (m : Word) : State :=
  let t : State := { s with sc := { s.sc with mask := m } }
  if s.sc.latched &&& s.sc.mask &&& ~~~m = 0 then t else t.requestNotice

/-! ## Claims -/

/-- Whether a waiting frame is the DRAW_CLAIM of global head `g`. -/
def TxEntry.isClaimOf (g : Nat) (e : TxEntry) : Bool :=
  match e.frame with
  | .drawClaim h _ _ => h == g
  | .steamHold _ | .drawEnd _ | .jarReport _ | .headState _ | .join _ | .notice _ | .counterReply _ _ _ _ => false

/-- Removes a head's DRAW_CLAIM from the transmit queue; this is no TX drop (R164). -/
def State.removeClaimFrame (s : State) (i : LocalHead) : State :=
  { s with lbi := { s.lbi with queue := s.lbi.queue.filter fun e => !e.isClaimOf (s.globalHead i) } }

/-- The head makes no further claim in its cycle (R73). -/
def State.endClaims (s : State) (i : LocalHead) : State :=
  s.updHead i fun h => { h with claimsEnded := true }

/-- Withdraws a head's claim: a QUEUED frame leaves the transmit queue, a RETRY wait is cancelled; a claim whose frame
is in flight is ON_BUS and cannot be withdrawn (R73, R164). -/
def State.withdrawClaim (s : State) (i : LocalHead) : State :=
  match (s.claim i).state with
  | .none | .onBus _ => s
  | .queued => ((s.removeClaimFrame i).updClaim i fun _ => .clear).endClaims i
  | .retry _ => (s.updClaim i fun _ => .clear).endClaims i

/-! ## Drive requests -/

/-- A request made by a head (R96, R97). -/
def DriveSlot.request (d : DriveSlot) (r : DriveRequest) : DriveSlot :=
  match d.pending, r with
  | some .stop, .stop => d
  | some .stop, .setup _ _ _ | some .stop, .start | some .stop, .result => { d with deferred := some r }
  | _, _ => { d with pending := some r }

/-- A head makes a request (R96). -/
def State.request (s : State) (i : LocalHead) (r : DriveRequest) : State :=
  s.updSlot i fun d => d.request r

/-- Whether an optional request is of a kind. -/
def isKind (k : DriveKind) (r : Option DriveRequest) : Bool :=
  match r with
  | some q => decide (q.kind = k)
  | none => false

/-- A withdrawal of a kind removes a pending and a deferred request of that kind, and a RESULT withdrawal stops the
RESULT wait (R98). -/
def DriveSlot.withdraw (d : DriveSlot) (k : DriveKind) : DriveSlot :=
  { pending := if isKind k d.pending then none else d.pending,
    deferred := if isKind k d.deferred then none else d.deferred,
    resultWait := if k = .result then none else d.resultWait }

/-- The running transaction of a head becomes DETACHED where its kind is among `ks` (R98, R106). -/
def State.detach (s : State) (i : LocalHead) (ks : List DriveKind) : State :=
  { s with dlc := { s.dlc with current := s.dlc.current.map fun t =>
      if t.head = i ∧ ks.contains t.request.kind then { t with attached := false } else t } }

/-- A head withdraws its request of a kind (R98). -/
def State.withdraw (s : State) (i : LocalHead) (k : DriveKind) : State :=
  (s.updSlot i fun d => d.withdraw k).detach i [k]

/-- A transaction of a head whose cycle ends belongs to no cycle and is DETACHED from then on (R23). -/
def State.detachCycle (s : State) (i : LocalHead) : State :=
  { s with dlc := { s.dlc with current := s.dlc.current.map fun t =>
      if t.head = i then { t with attached := false } else t } }

/-! ## Pins -/

/-- The level on SV0 to SV3, active low (12.3); released high during a reset and below the supply threshold. -/
def State.valvePin (s : State) (i : LocalHead) : Bool :=
  !(s.head i).valveOpen

/-- The level on DS0 to DS3, active low: asserted for the head of the running transaction (R91, 12.3). -/
def State.selectPin (s : State) (i : LocalHead) : Bool :=
  match s.dlc.current with
  | some t => decide (t.head ≠ i)
  | none => true

/-- The bits the running transaction shifts out on DOUT, in the order of the link clock: byte 0 first, each byte most
significant bit first (R91, R184). -/
def State.dataOut (s : State) : List Bool :=
  match s.dlc.current with
  | some t => payloadBits t.request.command
  | none => []

/-- The reply the DLC has read when the bits of DIN have been shifted in: the first bit read is the most significant bit
of byte 0 (R91, R184). -/
def replyOfBits (bits : List Bool) : BitVec 48 :=
  bits.foldl (fun r b => (r <<< 1) ||| (BitVec.ofBool b).setWidth 48) 0

end Sys2Proof.Machine
end

