-- ==== Sys2Proof/Machine/Cycle.lean ====
section
/-!
DEFINITION. What the head cycle, the Steam Draw Unit and the drive link share: jar reports and the end of a cycle, the
hand-off to the awaiting-verdict table, benching, the draw table and its admission tests, valves, claims, drive
failures, aborts.
-/
namespace Sys2Proof.Machine

/-! ## HEAD_STATE and the bench -/

/-- A head's standing at this moment (R141). -/
def State.headReport (s : State) (i : LocalHead) (o : Occasion) : HeadReport :=
  { head := s.globalHead i, bench := (s.head i).bench, trim := (s.learned i).trim, duds := (s.learned i).duds,
    lastDwell := (s.learned i).lastDwell, occasion := o }

/-- A HEAD_STATE is queued (R141). -/
def State.sendHeadState (s : State) (i : LocalHead) (o : Occasion) : State :=
  s.handIn (.headState (s.headReport i o))

/-- The head becomes benched; a head in CLAIMING makes no further claim in its cycle (R140, R24). -/
def Head.benched (h : Head) (r : BenchReason) : Head :=
  { h with bench := some r, claimsEnded := h.claimsEnded || decide (h.phase = .claiming) }

/-- A bench request is applied (R140), with its effect on a waiting claim (R24, R73). -/
def State.benchHead (s : State) (i : LocalHead) (r : BenchReason) : State :=
  if (s.head i).bench.isSome then s
  else ((((s.updHead i fun h => h.benched r).withdrawClaim i).latch .headBenched)).sendHeadState i .bench

/-- One failed transaction in the head's drive-failure count; reaching 3 from 2 latches DRIVE_FAULT and benches the head
(R102, R103). -/
def State.driveFailed (s : State) (i : LocalHead) : State :=
  let t := s.updHead i fun h => { h with driveFailures := min Config.failureMax (h.driveFailures + 1) }
  if (s.head i).driveFailures = 2 then (t.latch .driveFault).benchHead i .drive else t

/-- A successful transaction sets the head's drive-failure count to 0 (R102). -/
def State.driveSucceeded (s : State) (i : LocalHead) : State :=
  s.updHead i fun h => { h with driveFailures := 0 }

/-! ## Jar reports and the end of a cycle -/

/-- Whether an outcome counts as capped (R122). -/
def JarOutcome.capped : JarOutcome → Bool
  | .cappedOk | .cappedSuspect => true
  | .noCap | .benched | .stopped | .aborted => false

/-- A counter increased by one where a condition holds. -/
def bumpIf (c : Bool) (n : Nat) : Nat := if c then bump n else n

/-- The seven jar counters moved by a report (R120); `seated` says that the report comes from a capping cycle. -/
def HeadCounters.tally (c : HeadCounters) (seated : Bool) (r : JarReport) : HeadCounters :=
  { c with
    seated := bumpIf seated c.seated,
    cappedOk := bumpIf (decide (r.outcome = .cappedOk)) c.cappedOk,
    cappedSuspect := bumpIf (decide (r.outcome = .cappedSuspect)) c.cappedSuspect,
    notCapped := bumpIf (!r.outcome.capped) c.notCapped,
    shortFlushes := bumpIf (hasFlag r.flags .shortFlush) c.shortFlushes,
    noFlushes := bumpIf (hasFlag r.flags .noFlush) c.noFlushes,
    driveFaults := bumpIf (hasFlag r.flags .driveFault) c.driveFaults }

/-- The jar's counters are moved and its report is handed in (R118, R120). -/
def State.reportJar (s : State) (i : LocalHead) (seated : Bool) (r : JarReport) : State :=
  (s.updCounters i fun c => c.tally seated r).handIn (.jarReport r)

/-- A capped jar is appended to the awaiting-verdict table; a full table evicts its oldest entry (R126, R127). -/
def State.handOff (s : State) (e : AwaitingEntry) : State :=
  if s.vu.awaiting.length < Config.awaitingSize then
    { s with vu := { s.vu with awaiting := s.vu.awaiting ++ [e] } }
  else
    (({ s with vu := { s.vu with awaiting := s.vu.awaiting.drop 1 ++ [e] } } : State).count fun c =>
      { c with evictions := bump c.evictions }).latch .verdictEvicted

/-- The seq a jar is reported under: its bound record's, or 65535 (R117). -/
def seqOf : Option JarRecord → Nat
  | some r => r.seq
  | none => Config.noSeq

/-- The report of the jar at a head (R117). -/
def State.jarReport (s : State) (i : LocalHead) (o : JarOutcome) (torque angle : Nat) : JarReport :=
  { seq := seqOf (s.head i).bound, head := s.globalHead i, outcome := o, profile := (s.head i).profile,
    flags := (s.head i).flags, torque := torque, angle := angle }

/-- The awaiting-verdict entry of the jar at a head; the applied dwell is 0 for a jar that carries NO_FLUSH (R122). -/
def State.awaitingEntry (s : State) (i : LocalHead) : AwaitingEntry :=
  { seq := seqOf (s.head i).bound, head := s.globalHead i, profile := (s.head i).profile,
    applied := if hasFlag (s.head i).flags .noFlush then 0 else (s.head i).applied, flags := (s.head i).flags,
    cappedAt := s.now }

/-- The cycle's state is discarded and the head is IDLE; what belongs to the head outlasts the cycle (01, 1.2). -/
def Head.endCycle (h : Head) : Head :=
  { h with phase := .idle, bound := none, profile := 0, dwell := 0, window := 0, flags := 0, setupDone := false,
           claimsEnded := false, valveOpenedAt := 0, valveCloseAt := 0, applied := 0 }

/-- The hand-off of the jar at a head, where its outcome and its seq call for one (R122). -/
def State.handOffJar (s : State) (i : LocalHead) (o : JarOutcome) : State :=
  if o.capped && decide (seqOf (s.head i).bound ≠ Config.noSeq) then s.handOff (s.awaitingEntry i) else s

/-- The event that ends an open cycle: counters, report, hand-off, IDLE, in this order (R115, R118, R122). A transaction
of the cycle that is still on the link is applied to no later cycle (R23). -/
def State.finish (s : State) (i : LocalHead) (o : JarOutcome) (torque angle : Nat) : State :=
  (((s.reportJar i true (s.jarReport i o torque angle)).handOffJar i o).updHead i Head.endCycle).detachCycle i

/-! ## The draw table -/

/-- Whether an entry is that of a station and head. -/
def DrawEntry.isOf (src : Address) (g : Nat) (e : DrawEntry) : Bool :=
  e.src == src && e.head == g

/-- The sum of the flow units of some entries. -/
def unitsOf (l : List DrawEntry) : Nat :=
  (l.map (·.units)).sum

/-- S: the units of the table, leaving out the entry of the claim's station and head (R66). -/
def State.lineUnits (s : State) (src : Address) (g : Nat) : Nat :=
  unitsOf (s.sdu.table.filter fun e => !e.isOf src g)

/-- S_own: the units of this station's entries, leaving out the claiming head's (R85). -/
def State.ownUnits (s : State) (g : Nat) : Nat :=
  unitsOf (s.sdu.table.filter fun e => e.src == s.addr && e.head != g)

/-- C_iso = max(1, ⌊C / Ncap⌋) (R85). -/
def State.isolatedShare (s : State) : Nat :=
  max 1 (s.setup.C / s.ncap)

/-- No hold runs, and the table has room for the claim's entry or already holds it (R66, R85). -/
def State.tableOpen (s : State) (src : Address) (g : Nat) : Bool :=
  s.sdu.hold.isNone && (s.sdu.table.any (DrawEntry.isOf src g) || decide (s.sdu.table.length < Config.drawTableSize))

/-- The admission test against the whole table and C (R66). -/
def State.admitsLine (s : State) (src : Address) (g f : Nat) : Bool :=
  s.tableOpen src g && decide (s.lineUnits src g + f ≤ s.setup.C)

/-- The admission test of isolation, against the station's own entries and C_iso (R85). -/
def State.admitsIsolated (s : State) (g f : Nat) : Bool :=
  s.tableOpen s.addr g && decide (s.ownUnits g + f ≤ s.isolatedShare)

/-- The test of the station's own echo: R85's while ISOLATED, both during the relisten, R66's otherwise (R71, R86, R87). -/
def State.admitsEcho (s : State) (g f : Nat) : Bool :=
  if s.sdu.isolated then s.admitsIsolated g f
  else if s.sdu.relisten.isSome then s.admitsLine s.addr g f && s.admitsIsolated g f
  else s.admitsLine s.addr g f

/-- Removes the entry of a station and head (R68, R69). -/
def State.removeEntry (s : State) (src : Address) (g : Nat) : State :=
  { s with sdu := { s.sdu with table := s.sdu.table.filter fun e => !e.isOf src g } }

/-- An admitted claim's entry, replacing an earlier one of the same station and head (R67). -/
def State.writeEntry (s : State) (src : Address) (g f dwell : Nat) : State :=
  { s with sdu := { s.sdu with table :=
      (s.sdu.table.filter fun e => !e.isOf src g)
        ++ [{ src := src, head := g, units := f, endAt := s.now + dwell * Config.ms + Config.entryMargin }] } }

/-! ## Valves and claims -/

/-- How long a valve has been open, in ms: to this moment, and no longer than to its valve-close time (R62, log 17). -/
def State.openTime (s : State) (i : LocalHead) : Nat :=
  (min s.now (s.head i).valveCloseAt - (s.head i).valveOpenedAt) / Config.ms

/-- The valve closes, the applied dwell is recorded, and a DRAW_END is handed in (R75). -/
def State.closeValve (s : State) (i : LocalHead) : State :=
  (s.updHead i fun h => { h with valveOpen := false, applied := s.openTime i }).handIn (.drawEnd (s.globalHead i))

/-- The head opens its valve on an admission, and a claim that carries the extension clears purge-pending (R19, R76). -/
def Head.openFor (h : Head) (now dwell : Nat) (extension : Bool) : Head :=
  { h with phase := .flushing, valveOpen := true, valveOpenedAt := now, valveCloseAt := now + dwell * Config.ms,
           purgePending := h.purgePending && !extension }

/-- An admission is reported to the head: its valve opens, or, where the head may not open it, a DRAW_END is queued at
once (R19, R76). An admission that opens no valve sets no JOG flag, though R113 and R151 say "each admission": it is no
event of a cycle (DEDUCED, log 19). -/
def State.reportAdmission (s : State) (i : LocalHead) (dwell : Nat) (extension : Bool) : State :=
  if s.mayClaim i then (s.updHead i fun h => h.openFor s.now dwell extension).markJog i
  else s.handIn (.drawEnd (s.globalHead i))

/-- The remaining time R of a head, in ms (R59). -/
def State.remaining (s : State) (i : LocalHead) : Nat :=
  travelTime (countsTo s.setup.E (s.globalHead i * s.pc + s.setup.aS) (s.ttu.x + s.ttu.lag)) s.ttu.tPitch s.pc

/-- A claim with its dwell is formed: decided at once during isolation, and otherwise queued (R70, R85). -/
def State.announce (s : State) (i : LocalHead) (c : Claim) : State :=
  let g := s.globalHead i
  if s.sdu.isolated then
    if s.admitsIsolated g c.units then
      ((((s.writeEntry s.addr g c.units c.dwell).updClaim i fun _ => { c with admittedLocally := true }).reportAdmission i
        c.dwell c.extension)).handIn (.drawClaim g c.units c.dwell)
    else ((s.updClaim i fun _ => c).count fun k => { k with claimsRefused := bump k.claimsRefused }).claimRefused i
  else (s.updClaim i fun _ => c).handIn (.drawClaim g c.units c.dwell)

/-- A claim is formed for a head: the claim call, its SHORT_FLUSH, and the claim or no claim (R60, R61, R70, R72). -/
def State.formClaim (s : State) (i : LocalHead) : State :=
  let h := s.head i
  let p := s.profile h.profile
  match claimCall h.dwell p.Dmin (s.remaining i) with
  | none => (s.updClaim i fun _ => .clear).endClaims i
  | some c =>
    (if c < h.dwell then s.flag i .shortFlush else s).announce i
      { state := .queued, units := p.f, dwell := c, extension := hasFlag h.flags .purgeAdded, admittedLocally := false }

/-- Withdraws a QUEUED claim whose remaining time has fallen below Dmin (R73, log 27). -/
def State.recheckClaim (i : LocalHead) (s : State) : State :=
  if (s.claim i).state = .queued ∧ ((s.head i).phase = .claiming ∨ (s.head i).phase = .flushing)
      ∧ s.remaining i < (s.profile (s.head i).profile).Dmin then s.withdrawClaim i
  else s

/-- The remaining times are recomputed at a new forward count and at a change of t_pitch (R73). -/
def State.recheckClaims (s : State) : State :=
  s.eachOwned State.recheckClaim

/-! ## Abort -/

/-- What the abort of a head does on the steam side and on the drive side, by its phase (R25, R73, R106). -/
def State.abortActions (s : State) (i : LocalHead) : State :=
  let t := s.withdrawClaim i
  match (s.head i).phase with
  | .idle => s
  | .seated | .capHeld | .claiming | .pressed => t.withdraw i .setup
  | .flushing => (if (s.head i).valveOpen then t.closeValve i else t).withdraw i .setup
  | .torquing => (t.detach i [.setup, .start]).request i .stop
  | .releasing => t.withdraw i .result

/-- The outcome of an aborted jar: its cap was seated from PRESSED on (R25). -/
def Phase.abortOutcome : Phase → JarOutcome
  | .pressed | .torquing | .releasing => .cappedSuspect
  | .idle | .seated | .capHeld | .claiming | .flushing => .aborted

/-- An abort order at one head: an open cycle ends with ABORTED (R25). -/
def State.abortHead (i : LocalHead) (s : State) : State :=
  if (s.head i).phase = .idle then s
  else (((s.flag i .aborted).markJog i).abortActions i).finish i (s.head i).phase.abortOutcome 0 0

/-- An abort order of the TTU, taken by every owned head in local head order (R25, R118). -/
def State.abortAll (s : State) : State :=
  s.eachOwned State.abortHead

end Sys2Proof.Machine
end

