-- ==== Sys2Proof/Machine/Joining.lean ====
section
/-!
DEFINITION. Joining the line (10): the station's own JOIN frames, the roster, setup and profile parts, the conflicts and
the join.
-/
namespace Sys2Proof.Machine

/-! ## Own JOIN frames -/

/-- The JOIN of this station with its present state (R171). -/
def State.joinReport (s : State) : JoinReport :=
  { first := s.fh, count := s.hc, cause := s.sc.cause, heard := if s.joined then .joined else .joining }

/-- A JOIN is handed in (R171). -/
def State.sendJoin (s : State) : State :=
  s.handIn (.join s.joinReport)

/-- In JOINING a JOIN is handed in and the JOIN timer starts at 100 ms (R171). -/
def State.sendTimedJoin (s : State) : State :=
  let t := s.sendJoin
  { t with sc := { t.sc with joinTimer := some (t.now + Config.joinInterval) } }

/-! ## The join -/

/-- The join window has passed (R171). -/
def State.windowPassed (s : State) : Bool :=
  s.sc.window == .passed

/-- The conditions of the join (R176). -/
def State.joinConditions (s : State) : Bool :=
  s.sc.mode == .joining && s.windowPassed && s.setupStatus == .valid && s.profileStatus 0 == .valid
    && !s.sc.addressConflict && !s.headMapConflict

/-- The VU on leaving JOINING (R125). -/
def Vu.onJoin (v : Vu) : Vu :=
  { awaiting := [], noVerdictRun := 0, slots := v.slots.map fun t => { t with trimDue := false, dudDue := false } }

/-- The SDU on leaving JOINING (R64). The steam-low input stays as it stands, so a sample that finds it still low is a
fall at once (R80; DESIGN CHOICE, log 18). -/
def Sdu.onJoin (d : Sdu) : Sdu :=
  { Sdu.atReset with stloInput := d.stloInput, stloSince := d.stloSince }

/-- The blocks take their values on leaving JOINING, in STOPPED (R1, R46, R64, R90, R125, R169, R176). The
heard state of the station's own roster entry stays JOINING (DESIGN CHOICE, log 37). -/
def State.joinedState (s : State) : State :=
  { s with
    ttu := .atReset s.now, rq := [], sdu := s.sdu.onJoin, dlc := .atReset, vu := s.vu.onJoin,
    lbi := { s.lbi with silenceStart := s.now },
    sc := { s.sc with mode := .stopped, joinTimer := none } }

/-- The station leaves JOINING: blocks, mask, JOIN with state JOINED (R176, R178, R171). -/
def State.leaveJoining (s : State) : State :=
  (s.joinedState.changeMask s.setup.mask).sendJoin

/-- The test of the join (R176). -/
def State.tryJoin (s : State) : State :=
  if s.joinConditions then s.leaveJoining else s

/-! ## Timers and the own echo -/

/-- The JOIN timer is due in JOINING (R171). -/
def State.joinTimerDue (s : State) : Bool :=
  !s.joined && match s.sc.joinTimer with
    | some t => decide (t ≤ s.now)
    | none => false

/-- JOIN_TIMER (R171). -/
def State.joinTimer (s : State) : State :=
  if s.joinTimerDue then s.sendTimedJoin else s

/-- The join window is due to pass (R171). -/
def State.windowDue (s : State) : Bool :=
  match s.sc.window with
  | .running t => decide (t ≤ s.now)
  | .notStarted | .passed => false

/-- JOIN_WINDOW_PASS (R176). -/
def State.joinWindowPass (s : State) : State :=
  if s.windowDue then ({ s with sc := { s.sc with window := .passed } } : State).tryJoin else s

/-- The echo of an own JOIN starts the window where it has not started (R171). -/
def State.joinEcho (s : State) : State :=
  if s.sc.window = .notStarted ∧ s.joined = false then
    { s with sc := { s.sc with window := .running (s.now + Config.joinWindow) } }
  else s

/-! ## JOIN frames -/

/-- A JOIN that makes an entry or changes one: its role is known, and a CAPPER's heads fit a turret (R183). -/
def joinUsable (p : BitVec 24) : Bool :=
  match joinRole p with
  | none => false
  | some .capper => decide (1 ≤ joinCount p ∧ joinCount p ≤ 4 ∧ joinFirst p + joinCount p ≤ 64)
  | some .filler | some .detector | some .panel | some .header | some .rejecter => true

/-- The roster's entry for an address. -/
def State.rosterEntry (s : State) (a : Address) : Option RosterEntry :=
  s.sc.roster.find? fun e => e.addr == a

/-- The entry a JOIN leaves: a new one, or the old one with its role kept (R172). -/
def State.heardEntry (s : State) (src : Address) (r : Role) (p : BitVec 24) : RosterEntry :=
  { addr := src, role := ((s.rosterEntry src).map (·.role)).getD r, first := joinFirst p, count := joinCount p,
    heard := joinHeard p }

/-- The roster with an address's entry written in its place, or made at the end (R172). -/
def writeRoster (e : RosterEntry) : List RosterEntry → List RosterEntry
  | [] => [e]
  | x :: xs => if x.addr = e.addr then e :: xs else x :: writeRoster e xs

/-- The station answers a JOIN (R172). -/
def State.answersJoin (s : State) (src : Address) (p : BitVec 24) : Bool :=
  s.joined && match s.rosterEntry src with
    | none => true
    | some e => joinHeard p == .joining && e.heard == .joined

/-- A usable JOIN from another station: roster, conflict, answer, join test (R172, R175, R176). -/
def State.enterRoster (s : State) (src : Address) (r : Role) (p : BitVec 24) : State :=
  let e := s.heardEntry src r p
  let t : State := { s with sc := { s.sc with roster := writeRoster e s.sc.roster } }
  let u := if t.overlaps e then t.latch .headMapConflict else t
  let v := if s.answersJoin src p then u.sendJoin else u
  if s.headMapConflict && !t.headMapConflict then v.tryJoin else v

/-- The arrival of a JOIN from another station; one on the own address changes nothing here (R172, R183). An unusable
JOIN is not answered either, also where it carries JOINING from an address heard JOINED: R183 names the entry and the
conflict only (DESIGN CHOICE, log 33). -/
def State.takeJoin (s : State) (src : Address) (p : BitVec 24) : State :=
  if src = s.addr then s
  else match joinRole p with
    | some r => if joinUsable p then s.enterRoster src r p else s
    | none => s

/-! ## Setup and profiles -/

/-- A setup part stored, replacing any earlier copy; a part number above 3 stores nothing (R173). -/
def SetupParts.store (u : SetupParts) (p : BitVec 64) : Option SetupParts :=
  match setupPart p with
  | 0 => some { u with s0 := some (setupS0 p) }
  | 1 => some { u with s1 := some (setupS1 p) }
  | 2 => some { u with s2 := some (setupS2 p) }
  | 3 => some { u with s3 := some (setupS3 p) }
  | _ => none

/-- A profile part stored, replacing any earlier copy; a part number above 4 stores nothing (R174). -/
def ProfileParts.store (u : ProfileParts) (p : BitVec 64) : Option ProfileParts :=
  match profilePart p with
  | 0 => some { u with p0 := some (profileP0 p) }
  | 1 => some { u with p1 := some (profileP1 p) }
  | 2 => some { u with p2 := some (profileP2 p) }
  | 3 => some { u with p3 := some (profileP3 p) }
  | 4 => some { u with p4 := some (profileP4 p) }
  | _ => none

/-- CONFIG_INVALID is latched where a check has found a set INVALID (R173, R174). -/
def State.latchInvalid (s : State) (c : ConfigStatus) : State :=
  if c = .invalid then s.latch .configInvalid else s

/-- The arrival of a SETUP (R173, R177). -/
def State.takeSetup (s : State) (src : Address) (p : BitVec 64) : State :=
  if s.roleOf src ≠ some .panel then s
  else if s.joined then s.latch .lateConfig
  else match s.sc.setupParts.store p with
    | none => s
    | some u =>
      let t : State := { s with sc := { s.sc with setupParts := u } }
      (t.latchInvalid t.setupStatus).tryJoin

/-- The arrival of a PROFILE (R174, R177). -/
def State.takeProfile (s : State) (src : Address) (p : BitVec 64) : State :=
  if s.roleOf src ≠ some .panel then s
  else if s.joined then s.latch .lateConfig
  else if 8 ≤ profileNumber p then s
  else
    let k : ProfileIndex := Fin.ofNat 8 (profileNumber p)
    match (s.sc.profiles.get k).store p with
    | none => s
    | some u =>
      let t : State := { s with sc := { s.sc with profiles := s.sc.profiles.set k u } }
      (t.latchInvalid (t.profileStatus k)).tryJoin

end Sys2Proof.Machine
end

