-- ==== Sys2Proof/Machine/Steam.lean ====
section
/-!
DEFINITION. The Steam Draw Unit's own steps (04): claims, draw ends and holds as they are received, retries, expiries,
the steam-low input, isolation and the relisten.
-/
namespace Sys2Proof.Machine

/-- The station queues a STEAM_HOLD carrying Hq (R81). A renewal that is due stays due, and a second drop puts its time
anew: R83 does not say what a further hold does to it (DESIGN CHOICE, log 31). -/
def State.sendHold (s : State) : State :=
  s.handIn (.steamHold s.setup.Hq)

/-- The station sends holds: STLO is LOW, the mode is RUNNING or JOG and Hq is above 0 (R81, R82, R83). -/
def State.holdCalled (s : State) : Bool :=
  s.sdu.stlo == .low && s.capping && decide (0 < s.setup.Hq)

/-! ## Frames -/

/-- The echo of this station's own claim at the head it names (R71, R86, R87). -/
def State.headEcho (s : State) (i : LocalHead) (p : BitVec 32) : State :=
  let c := s.claim i
  if c.admittedLocally then s.updClaim i fun _ => .clear
  else if s.admitsEcho (claimHead p) (claimUnits p) then
    ((s.writeEntry s.addr (claimHead p) (claimUnits p) (claimDwell p)).updClaim i fun _ => .clear).reportAdmission i
      (claimDwell p) c.extension
  else (s.count fun k => { k with claimsRefused := bump k.claimsRefused }).claimRefused i

/-- The echo of this station's own claim; in JOINING it is ignored (R65, R71). -/
def State.claimEcho (s : State) (p : BitVec 32) : State :=
  if !s.joined then s
  else match s.localOf (claimHead p) with
    | some i => s.headEcho i p
    | none => s

/-- A frame of another CAPPER station in the roster, not on this station's address (R65). -/
def State.fromPeerCapper (s : State) (src : Address) : Bool :=
  s.joined && src != s.addr && s.roleOf src == some .capper

/-- Another station's claim (R65, R66, R67). -/
def State.peerClaim (s : State) (src : Address) (p : BitVec 32) : State :=
  if s.fromPeerCapper src && decide (claimHead p < s.setup.P) && decide (1 ≤ claimUnits p ∧ claimUnits p ≤ 4)
      && s.admitsLine src (claimHead p) (claimUnits p) then
    s.writeEntry src (claimHead p) (claimUnits p) (claimDwell p)
  else s

/-- The echo of this station's own DRAW_END; in JOINING it is ignored (R65, R69, R75). -/
def State.drawEndEcho (s : State) (g : Nat) : State :=
  if s.joined then s.removeEntry s.addr g else s

/-- Another station's DRAW_END (R65, R69). -/
def State.peerDrawEnd (s : State) (src : Address) (g : Nat) : State :=
  if s.fromPeerCapper src && decide (g < s.setup.P) then s.removeEntry src g else s

/-- A STEAM_HOLD of `q` ms sets or stops the hold timer; a hold of 0 makes the origin PEER (R78). -/
def State.takeHold (s : State) (o : HoldOrigin) (q : Nat) : State :=
  if !s.joined then s
  else if q = 0 then { s with sdu := { s.sdu with hold := none, origin := .peer } }
  else { s with sdu := { s.sdu with hold := some (s.now + q * Config.ms), origin := o } }

/-! ## Timers -/

/-- The valve-close time of a head is reached with its valve open (R19). -/
def State.valveCloseDue (s : State) (i : LocalHead) : Bool :=
  decide ((s.head i).phase = .flushing) && (s.head i).valveOpen && decide ((s.head i).valveCloseAt ≤ s.now)

/-- VALVE_CLOSE_TIME (R19, R75, R113). -/
def State.valveCloseTime (s : State) (i : LocalHead) : State :=
  if s.valveCloseDue i then (s.markJog i).closeValve i else s

/-- CLAIM_RETRY: the end of a head's 5 ms wait (R72). -/
def State.claimRetry (s : State) (i : LocalHead) : State :=
  match (s.claim i).state with
  | .retry t =>
    if t ≤ s.now then
      let u := s.updClaim i fun _ => .clear
      if s.mayClaim i then u.formClaim i else u
    else s
  | .none | .queued | .onBus _ => s

/-- DRAW_ENTRY_EXPIRY: the entry of a station and head goes at its end time (R68). -/
def State.drawEntryExpiry (s : State) (src : Address) (g : Nat) : State :=
  { s with sdu := { s.sdu with table :=
      (s.sdu.table.filter fun e => !(e.isOf src g && decide (e.endAt ≤ s.now))) } }

/-- Whether a timer that ends at an optional time has reached it. -/
def reached (t : Option Nat) (now : Nat) : Bool :=
  match t with
  | some d => decide (d ≤ now)
  | none => false

/-- HOLD_EXPIRY (R78, R82). -/
def State.holdExpiry (s : State) : State :=
  if reached s.sdu.hold s.now then
    let t : State := { s with sdu := { s.sdu with hold := none } }
    if s.sdu.origin = .own ∧ s.holdCalled then t.sendHold else t
  else s

/-- HOLD_RENEWAL (R83). -/
def State.holdRenewal (s : State) : State :=
  if reached s.sdu.renewal s.now then
    let t : State := { s with sdu := { s.sdu with renewal := none } }
    if s.holdCalled then t.sendHold else t
  else s

/-- The input has stood at a level for `held` µs: 2 ms or more, and no longer than since the last change that got through
the filter (R80). -/
def State.stloSettled (s : State) (held : Nat) : Bool :=
  decide (Config.stloFilter ≤ held) && s.sdu.stloSince.all fun t => decide (t + held ≤ s.now)

/-- The filter of the steam-low input: a change of level gets through once the input has held the new level for 2 ms, and
a change held for less is not taken (R80). -/
def State.stloFilter (s : State) (l : StloLevel) (held : Nat) : State :=
  if s.sdu.stloInput ≠ l ∧ s.stloSettled held = true then
    { s with sdu := { s.sdu with stloInput := l, stloSince := some s.now } }
  else s

/-- A sample of the filtered input against STLO level taken: a fall, a rise, or neither (R80, R81). -/
def State.stloSample (s : State) : State :=
  match s.sdu.stloInput, s.sdu.stlo with
  | .low, .high =>
    let t := ({ s with sdu := { s.sdu with stlo := .low } } : State).latch .steamLow
    if t.holdCalled then t.sendHold else t
  | .high, .low => { s with sdu := { s.sdu with stlo := .high } }
  | .low, .low | .high, .high => s

/-- A sample is due at once where the filtered input is not at the level taken, as after the join of a station whose
header is low (R64, R80; DESIGN CHOICE, log 18). -/
def State.stloDue (s : State) : Bool :=
  decide (s.sdu.stloInput ≠ s.sdu.stlo)

/-- STLO_FALL: the input has stood low for `held` µs when it is sampled (R80, R81). -/
def State.stloFall (s : State) (held : Nat) : State :=
  (s.stloFilter .low held).stloSample

/-- STLO_RISE: the input has stood high for `held` µs when it is sampled (R80). -/
def State.stloRise (s : State) (held : Nat) : State :=
  (s.stloFilter .high held).stloSample

/-- The silence timer, in ms, which holds at 65535 (R168). -/
def State.silenceTimer (s : State) : Nat :=
  min Config.silenceMax ((s.now - s.lbi.silenceStart) / Config.ms)

/-- The silence timer reaches 250 ms in RUNNING or JOG (R84). -/
def State.silenceDue (s : State) : Bool :=
  s.capping && !s.sdu.isolated && decide (Config.silenceMs ≤ s.silenceTimer)

/-- SILENCE_THRESHOLD (R84). -/
def State.silenceThreshold (s : State) : State :=
  if s.silenceDue then ({ s with sdu := { s.sdu with isolated := true } } : State).latch .busIsolated else s

/-- RELISTEN_END (R87). -/
def State.relistenEnd (s : State) : State :=
  if reached s.sdu.relisten s.now then { s with sdu := { s.sdu with relisten := none } } else s

end Sys2Proof.Machine
end

