-- ==== Sys2Proof/Machine/Bus.lean ====
section
/-!
DEFINITION. The Line Bus Interface (09): contention, the frame in flight, and what every received frame does before its
owner takes it.
-/
namespace Sys2Proof.Machine

/-! ## The frame in flight -/

/-- The claim of a frame goes on: from QUEUED to ON_BUS, or back (R70, R161, R164). -/
def State.moveClaim (s : State) (f : TxFrame) (next : ClaimState → ClaimState) : State :=
  match f with
  | .drawClaim g _ _ => match s.localOf g with
    | some i => s.updClaim i fun c => { c with state := next c.state }
    | none => s
  | .steamHold _ | .drawEnd _ | .jarReport _ | .headState _ | .join _ | .notice _ | .counterReply _ _ _ _ => s

/-- A QUEUED claim whose frame is taken as the frame in flight is ON_BUS (R164; log 10). -/
def ClaimState.taken : ClaimState → ClaimState
  | .queued => .onBus false
  | .none => .none
  | .onBus w => .onBus w
  | .retry t => .retry t

/-- A claim whose frame has won contention is ON_BUS until its echo (R70; log 10). -/
def ClaimState.won : ClaimState → ClaimState
  | .queued | .onBus _ => .onBus true
  | .none => .none
  | .retry t => .retry t

/-- A claim whose frame is put back returns from ON_BUS to QUEUED (R161). -/
def ClaimState.putBack : ClaimState → ClaimState
  | .onBus _ | .queued => .queued
  | .none => .none
  | .retry t => .retry t

/-- FRAME_CONTENTION_START: with the bus idle, the head frame becomes the frame in flight and its start bit is sent; a
claim so taken is ON_BUS (R160, R164, R166). -/
def State.contentionStart (s : State) : State :=
  match s.lbi.receive, s.lbi.inFlight, s.lbi.queue with
  | .idle, none, e :: rest =>
    ({ s with lbi := { s.lbi with
      queue := rest, inFlight := some { entry := e, won := false }, receive := .receiving } } : State).moveClaim e.frame
        .taken
  | _, _, _ => s

/-- START_BIT (R160, R166). -/
def State.startBit (s : State) : State :=
  if s.lbi.receive = .idle then { s with lbi := { s.lbi with receive := .receiving } } else s

/-- The frame whose header has won: a NOTICE takes its content from the latched word and the mask (R165). -/
def State.wonFrame (s : State) (f : TxFrame) : TxFrame :=
  match f with
  | .notice _ => .notice (some { latched := s.sc.latched, mask := s.sc.mask })
  | .steamHold _ | .drawClaim _ _ _ | .drawEnd _ | .jarReport _ | .headState _ | .join _ | .counterReply _ _ _ _ => f

/-- CONTENTION_WON (R70, R165). -/
def State.contentionWon (s : State) : State :=
  match s.lbi.inFlight with
  | some f =>
    if f.won then s
    else ({ s with lbi := { s.lbi with
      inFlight := some { entry := { f.entry with frame := s.wonFrame f.entry.frame }, won := true } } } :
      State).moveClaim f.entry.frame .won
  | none => s

/-- A frame put back keeps its content, but for a NOTICE, whose content is taken afresh (R161). -/
def TxEntry.putBack (e : TxEntry) : TxEntry :=
  if e.frame.isNotice then { e with frame := .notice none } else e

/-- The queue without a NOTICE that waits while a NOTICE is put back (R165). -/
def State.dropWaitingNotice (s : State) (e : TxEntry) : State :=
  if e.frame.isNotice then
    { s with lbi := { s.lbi with queue := s.lbi.queue.filter fun x => !x.frame.isNotice } }
  else s

/-- The frame in flight goes back into the queue at the place its class and age give it (R161, R163, R165). -/
def State.returnFrame (s : State) (e : TxEntry) : State :=
  ((({ s with lbi := { s.lbi with inFlight := none } } : State).moveClaim e.frame .putBack).dropWaitingNotice
    e).enter e.putBack

/-- The bits of the frame in flight, from its start bit on (R159). -/
def State.sentBits (s : State) (f : InFlight) : List Bool :=
  wireBits f.entry.frame.cls f.entry.frame.kind.code s.addr.toNat f.entry.frame.payload

/-- The LBI compares bit `bit` of the frame in flight with the level it reads back (R160). A bit of the header is sent
before the header has won, and a later bit after it (R165), so no other bit is compared. -/
def State.compareBit (s : State) (f : InFlight) (bit : Nat) (level : Bool) : ReadBack :=
  match (s.sentBits f)[bit]? with
  | some sent => if decide (bit < Config.headerBits) = f.won then .agrees else readBack (!f.won) sent level
  | none => .agrees

/-- LOST_CONTENTION: a recessive header bit is read as dominant, and the frame goes back (R160, R161). -/
def State.lostContention (s : State) (bit : Nat) (level : Bool) : State :=
  match s.lbi.inFlight with
  | some f => if s.compareBit f bit level = .lostContention then s.returnFrame f.entry else s
  | none => s

/-- One bad frame is counted and BAD_FRAME is latched (R161, R166). -/
def State.badFrame (s : State) : State :=
  (s.count fun c => { c with badFrames := bump c.badFrames }).latch .badFrame

/-- A transmit error: one bad frame is counted and the frame goes back; the frame now read on the bus is not counted
again (R161, R166). -/
def State.errorStop (s : State) (f : InFlight) : State :=
  let t := s.badFrame.returnFrame f.entry
  { t with lbi := { t.lbi with errorCounted := true } }

/-- TRANSMIT_ERROR: a bit is read back otherwise than it was sent, and it is no lost contention (R160, R161). -/
def State.transmitError (s : State) (bit : Nat) (level : Bool) : State :=
  match s.lbi.inFlight with
  | some f => if s.compareBit f bit level = .transmitError then s.errorStop f else s
  | none => s

/-! ## Reception -/

/-- The LBI reads frames: no reset, and the bus has been seen idle since the last reset (R166). -/
def State.reads (s : State) : Bool :=
  !s.sc.inReset && s.lbi.receive != .waitingIdle

/-- The end of a frame that was read (R166). -/
def State.frameEnd (s : State) : State :=
  { s with lbi := { s.lbi with receive := .idle, errorCounted := false } }

/-- BAD_FRAME_RECEIVED: a frame judged bad at its end (R166). -/
def State.badReceived (s : State) (r : FrameRead) : State :=
  if s.reads && frameBad r then
    if s.lbi.errorCounted then s.frameEnd else s.frameEnd.badFrame
  else s

/-- The first valid frame from another station while ISOLATED ends it and starts the relisten (R87). -/
def State.endIsolation (s : State) : State :=
  if s.sdu.isolated then
    { s with sdu := { s.sdu with isolated := false, relisten := some (s.now + Config.relistenTime) } }
  else s

/-- A valid frame on this station's address that is not its echo is an address conflict (R167, R175). -/
def State.checkAddress (s : State) (src : Address) : State :=
  if src = s.addr then
    ({ s with sc := { s.sc with addressConflict := true } } : State).latch .addressConflict
  else s

/-- What a valid frame from another station does before its owner takes it: the silence timer is set to 0, isolation
ends, an address conflict is raised (R87, R167, R168). -/
def State.heardOther (s : State) (src : Address) : State :=
  (({ s with lbi := { s.lbi with silenceStart := s.now } } : State).endIsolation).checkAddress src

/-- A frame is the echo of the frame in flight: this station's address, kind and payload (R161, R167). An echo is the
frame's completion whether or not CONTENTION_WON has come before it: that the header has won is implied (DEDUCED, log 8).
-/
def State.isEcho (s : State) (src : Address) (kind : Nat) (payload : List Byte) : Bool :=
  src == s.addr && match s.lbi.inFlight with
    | some f => f.entry.frame.kind.code == kind && f.entry.frame.payload == payload
    | none => false

/-- The frame in flight has completed (R161). -/
def State.completed (s : State) : State :=
  { s.frameEnd with lbi := { s.frameEnd.lbi with inFlight := none } }

/-- The bytes of a payload of `n` bytes, byte 0 highest (R183). -/
def bytesOf (n : Nat) (v : Nat) : List Byte :=
  (List.range n).map fun k => byteOf (v / 2 ^ (8 * (n - 1 - k)))

/-- A frame of a kind this station does not send is handed to its owner as a frame from another station (R167). -/
def State.receive (s : State) (src : Address) (owner : State → State) : State :=
  if s.reads then owner (s.frameEnd.heardOther src) else s

/-- A frame of a kind this station sends: its own echo, or a frame from another station (R167). -/
def State.receiveOr (s : State) (src : Address) (kind : FrameKind) (payload : List Byte) (echo owner : State → State) :
    State :=
  if s.reads && s.isEcho src kind.code payload then echo s.completed else s.receive src owner

/-- A DRAW_CLAIM is received (R65, R66, R71). -/
def State.receiveClaim (s : State) (src : Address) (p : BitVec 32) : State :=
  s.receiveOr src .drawClaim (bytesOf 4 p.toNat) (fun t => t.claimEcho p) fun t => t.peerClaim src p

/-- A DRAW_END is received (R69). -/
def State.receiveDrawEnd (s : State) (src : Address) (p : BitVec 8) : State :=
  s.receiveOr src .drawEnd (bytesOf 1 p.toNat) (fun t => t.drawEndEcho p.toNat) fun t => t.peerDrawEnd src p.toNat

/-- A STEAM_HOLD is received (R65, R78). -/
def State.receiveHold (s : State) (src : Address) (p : BitVec 16) : State :=
  s.receiveOr src .steamHold (bytesOf 2 p.toNat) (fun t => t.takeHold .own p.toNat) fun t => t.takeHold .peer p.toNat

/-- A JOIN is received (R171, R172). -/
def State.receiveJoin (s : State) (src : Address) (p : BitVec 24) : State :=
  s.receiveOr src .join (bytesOf 3 p.toNat) State.joinEcho fun t => t.takeJoin src p

/-- JOIN_ECHO: the JOIN in flight has completed (R167, R171). It starts the window also where no CONTENTION_WON has come
before it: the completion of a frame implies that its header has won (DEDUCED, log 8). -/
def State.receiveJoinEcho (s : State) : State :=
  match s.lbi.inFlight with
  | some f => if s.reads && f.entry.frame.kind == .join then s.completed.joinEcho else s
  | none => s

/-- UNOWNED_FRAME: an own echo without effect, or a frame from another station that is not passed on (R167). -/
def State.receiveUnowned (s : State) (src : Address) (kind : Nat) (payload : List Byte) : State :=
  if s.reads && s.isEcho src kind payload then s.completed else s.receive src id

/-- BUS_IDLE_SEEN: the first idle after a reset, and the first JOIN (R166, R171). -/
def State.busIdleSeen (s : State) : State :=
  if s.lbi.receive = .waitingIdle then
    let t : State := { s with lbi := { s.lbi with receive := .idle } }
    if s.joined then t else t.sendTimedJoin
  else s

end Sys2Proof.Machine
end

