-- ==== Sys2Proof/Machine/Link.lean ====
section
/-!
DEFINITION. The Drive Link Controller (05): the arbiter, the completion of a transaction, and the evaluation of a jar on
its RESULT (06, section 6.1).
-/
namespace Sys2Proof.Machine

/-- The heads whose pending request is of a kind, in local head order (R99). -/
def State.headsAsking (s : State) (k : DriveKind) : List LocalHead :=
  ([0, 1, 2, 3] : List LocalHead).filter fun i => isKind k (s.slot i).pending

/-- The head the arbiter grants: the highest kind pending, the lowest head within it (R99). -/
def State.granted (s : State) : Option LocalHead :=
  (s.headsAsking .stop ++ s.headsAsking .start ++ s.headsAsking .setup ++ s.headsAsking .result).head?

/-- A grant takes the pending request; at the grant of a STOP the deferred request becomes pending (R97, R99). -/
def DriveSlot.grant (d : DriveSlot) : DriveSlot :=
  match d.pending with
  | some .stop => { d with pending := d.deferred, deferred := none }
  | some (.setup _ _ _) | some .start | some .result | none => { d with pending := none }

/-- The transaction of a granted request: ATTACHED when it comes from an open cycle, a STOP never (05, R99; log 13). -/
def State.transactionOf (s : State) (i : LocalHead) (r : DriveRequest) : Transaction :=
  { head := i, request := r, attached := decide (r.kind ≠ .stop) && decide ((s.head i).phase ≠ .idle),
    endsAt := s.now + Config.transactionTime }

/-- DRIVE_GRANT (R99). -/
def State.driveGrant (s : State) : State :=
  match s.dlc.current, s.granted with
  | none, some i => match (s.slot i).pending with
    | some r =>
      let t := s.updSlot i DriveSlot.grant
      { t with dlc := { t.dlc with current := some (s.transactionOf i r) } }
    | none => s
  | _, _ => s

/-! ## The completion -/

/-- The drive-failure count moves by the class of a completion (R102). -/
def State.countCompletion (s : State) (i : LocalHead) (c : ReplyClass) : State :=
  match c with
  | .success => s.driveSucceeded i
  | .failure => s.driveFailed i
  | .busy => s

/-- The torque fields of a jar's report: none where it carries DRIVE_FAULT, else converted from the reply (R112, R116). -/
def reportedTorque (flags : Word) (torque : Nat) : Nat :=
  if hasFlag flags .driveFault then 0 else min 255 (torque / 5)

/-- The turn angle of a jar's report (R112, R116). -/
def reportedAngle (flags : Word) (angle : Nat) : Nat :=
  if hasFlag flags .driveFault then 0 else min 4095 angle

/-- The flags of a jar after the tests on its RESULT reply, which a jar with DRIVE_FAULT does not get (R110, R111, R112). -/
def evaluatedFlags (p : Profile) (flags : Word) (torque angle : Nat) : Word :=
  if hasFlag flags .driveFault then flags else torqueFlags p.Tmin p.Tmax p.thetaMin torque angle flags

/-- The outcome at release, from the suspect set (R114). -/
def outcomeOf (flags : Word) : JarOutcome :=
  if isSuspect flags then .cappedSuspect else .cappedOk

/-- A RESULT of class success ends the cycle on the drive's reply (R22, R110 to R116). -/
def State.evaluate (s : State) (i : LocalHead) (torque angle : Nat) : State :=
  let f := evaluatedFlags (s.profile (s.head i).profile) (s.head i).flags torque angle
  (s.updHead i fun h => { h with flags := f }).finish i (outcomeOf f) (reportedTorque f torque) (reportedAngle f angle)

/-- A failed RESULT ends the cycle with DRIVE_FAULT and torque fields of zero (R101, R112). -/
def State.resultFailed (s : State) (i : LocalHead) : State :=
  (s.flag i .driveFault).finish i .cappedSuspect 0 0

/-- A busy RESULT is asked again after 2 ms (R95). -/
def State.resultBusy (s : State) (i : LocalHead) : State :=
  s.updSlot i fun d => { d with resultWait := some (s.now + Config.resultWait) }

/-- An ATTACHED completion is applied to the head's cycle (R23, R101, R113; log 19). -/
def State.applyCompletion (s : State) (i : LocalHead) (k : DriveKind) (c : ReplyClass) (torque angle : Nat) : State :=
  let t := s.markJog i
  match k, c with
  | .setup, .success => t.updHead i fun h => { h with setupDone := true }
  | .start, .failure => t.flag i .driveFault
  | .result, .success => t.evaluate i torque angle
  | .result, .failure => t.resultFailed i
  | .result, .busy => t.resultBusy i
  | .setup, .failure | .setup, .busy | .start, .success | .start, .busy => t
  | .stop, _ => s

/-- Whether a transaction's completion is applied: ATTACHED, to an open cycle, and a RESULT to a head in RELEASING (R22,
R23, R101). -/
def State.completionApplies (s : State) (t : Transaction) : Bool :=
  t.attached && decide ((s.head t.head).phase ≠ .idle)
    && (decide (t.request.kind ≠ .result) || decide ((s.head t.head).phase = .releasing))

/-- The completion of the running transaction with its reply judged: the count, then the cycle (R101). -/
def State.complete (s : State) (t : Transaction) (reply : BitVec 48) : State :=
  let c := judgeReply t.request.kind reply
  let u := ({ s with dlc := { s.dlc with current := none } } : State).countCompletion t.head c
  if s.completionApplies t then u.applyCompletion t.head t.request.kind c (replyTorque reply) (replyAngle reply) else u

/-- DRIVE_TRANSACTION_COMPLETE, 200 µs after the grant (R91, R101). A command that comes later finds the transaction
ended by `State.transactionEnd` (log 3). -/
def State.transactionComplete (s : State) (reply : BitVec 48) : State :=
  match s.dlc.current with
  | some t => if t.endsAt ≤ s.now then s.complete t reply else s
  | none => s

/-- The reply read where no drive answers: data-in is held high (R93). -/
def absentReply : BitVec 48 := 0xFFFFFFFFFFFF#48

/-- The end of a transaction that no command completes in its moment: the reply is read all the same, and no drive has
answered (R91, R93; log 3). -/
def State.transactionEnd (s : State) : State :=
  s.transactionComplete absentReply

/-- RESULT_WAIT_EXPIRY (R95). -/
def State.resultWaitExpiry (s : State) (i : LocalHead) : State :=
  match (s.slot i).resultWait with
  | some t =>
    if t ≤ s.now then (s.updSlot i fun d => { d with resultWait := none }).request i .result else s
  | none => s

end Sys2Proof.Machine
end

