-- ==== Sys2Proof/Machine/Turret.lean ====
section
/-!
DEFINITION. The turret's part: the head cycle at each angle event (01, section 1.2), and the encoder counts, the zero
mark and the crossings that raise those events (01, section 1.1).
-/
namespace Sys2Proof.Machine

/-! ## The infeed pass -/

/-- The close-out of a cycle still open at its head's next infeed pass (R14, R105). -/
def State.closeOut (s : State) (i : LocalHead) : State :=
  (((((s.withdraw i .result).flag i .driveFault).markJog i).finish i .cappedSuspect 0 0)).driveFailed i

/-- The records due for a global head, oldest first (R39). -/
def State.dueRecords (s : State) (g : Nat) : List JarRecord :=
  s.rq.filter fun r => r.head == g

/-- Removes every record due for a global head from the Record Queue (R39). -/
def State.takeRecords (s : State) (g : Nat) : State :=
  { s with rq := s.rq.filter fun r => r.head != g }

/-- The flags a jar begins with: RECORD_RANGE where its record brings it (R16), JOG at a pass taken in JOG (R113). -/
def State.firstFlags (s : State) (r : Option JarRecord) : Word :=
  setFlagIf (decide (s.sc.mode = .jog)) (setFlagIf (r.any (·.range)) 0 .recordRange) .jog

/-- The report of a jar whose cycle ends at the pass, BENCHED or STOPPED (R15, R117). -/
def State.passReport (s : State) (i : LocalHead) (o : JarOutcome) (r : Option JarRecord) : JarReport :=
  { seq := seqOf r, head := s.globalHead i, outcome := o, profile := (r.map (·.product)).getD 0,
    flags := s.firstFlags r, torque := 0, angle := 0 }

/-- What the Dwell Calculator is handed at an infeed pass; without a record, the fallback of an underrun (R16, R41). -/
def State.dwellInput (s : State) (i : LocalHead) (r : Option JarRecord) : DwellInput :=
  let p := s.profile 0
  { mass := (r.map (·.mass)).getD (p.rho * p.Vb / 1000), temp := (r.map (·.temp)).getD p.Tref,
    recordMissing := r.isNone, trim := (s.learned i).trim, purgePending := (s.head i).purgePending,
    tPitch := s.ttu.tPitch, window := s.setup.aS - s.setup.aFs, pc := s.pc }

/-- The profile of a jar: the one its record names, or profile 0 (00_scope, Names in the text). -/
def productOf (r : Option JarRecord) : ProfileIndex :=
  (r.map (·.product)).getD 0

/-- The open cycle that begins at a pass (R16, R63). -/
def Head.seat (h : Head) (r : Option JarRecord) (flags : Word) (d : DwellResult) : Head :=
  { h with phase := .seated, bound := r, profile := productOf r, dwell := d.dwell, window := d.window,
           flags := flags ||| d.flags, setupDone := false, claimsEnded := false, applied := 0 }

/-- The SETUP request of a jar's profile: target, speed and turn limit 2 × θmin (R92). -/
def Profile.setupRequest (p : Profile) : DriveRequest :=
  .setup p.Tt p.speed (2 * p.thetaMin)

/-- An underrun is counted and latched (R41). -/
def State.underrun (s : State) : State :=
  (s.count fun c => { c with underruns := bump c.underruns }).latch .recordUnderrun

/-- A capping cycle begins (R16, R41, R48). -/
def State.beginCycle (s : State) (i : LocalHead) (r : Option JarRecord) : State :=
  let t := if r.isNone then s.underrun else s
  let flags := setFlagIf r.isNone (s.firstFlags r) .recordMissing
  let d := infeedCall (s.profile (productOf r)).forDwell (s.dwellInput i r)
  (t.updHead i fun h => h.seat r flags d).request i (s.profile (productOf r)).setupRequest

/-- The infeed pass of an IDLE head: the records due are taken, and the jar and the head decide (R15, R39, R40). -/
def State.idlePass (s : State) (i : LocalHead) (jar : Bool) : State :=
  let g := s.globalHead i
  let due := s.dueRecords g
  let t := s.takeRecords g
  if !jar then t.count fun c => { c with orphans := bumpBy due.length c.orphans }
  else if (s.head i).bench.isSome then
    (t.count fun c => { c with surplus := bumpBy due.length c.surplus }).reportJar i false (s.passReport i .benched none)
  else
    let u := t.count fun c => { c with surplus := bumpBy (due.length - 1) c.surplus }
    if s.capping then u.beginCycle i due.head?
    else u.reportJar i false (s.passReport i .stopped due.head?)

/-- The infeed pass (R14, R15). In a phase other than IDLE and RELEASING it has no stated effect (R12, log 16). -/
def State.infeedPass (s : State) (i : LocalHead) (jar : Bool) : State :=
  match (s.head i).phase with
  | .idle => s.idlePass i jar
  | .releasing => (s.closeOut i).idlePass i jar
  | .seated | .capHeld | .claiming | .flushing | .pressed | .torquing => s

/-! ## From cap pick to release -/

/-- A head's phase becomes `p`. -/
def State.setPhase (s : State) (i : LocalHead) (p : Phase) : State :=
  s.updHead i fun h => { h with phase := p }

/-- Cap pick (R17). -/
def State.capPick (s : State) (i : LocalHead) (cap : Bool) : State :=
  if (s.head i).phase = .seated then
    if cap then (s.markJog i).setPhase i .capHeld
    else (((s.markJog i).flag i .noCap).withdraw i .setup).finish i .noCap 0 0
  else s

/-- Flush start (R18, R70): a benched head makes no claim in the cycle (R143), and a claim is formed only from NONE. -/
def State.flushStart (s : State) (i : LocalHead) : State :=
  if (s.head i).phase = .capHeld then
    let t := (s.markJog i).setPhase i .claiming
    if (s.head i).bench.isSome then t.endClaims i
    else if (s.claim i).state = .none then t.formClaim i
    else t
  else s

/-- Seat (R20, R73). -/
def State.seat (s : State) (i : LocalHead) : State :=
  match (s.head i).phase with
  | .flushing =>
    let t := (s.markJog i).withdrawClaim i
    (if (s.head i).valveOpen then (t.flag i .shortFlush).closeValve i else t).setPhase i .pressed
  | .claiming =>
    (((s.markJog i).withdrawClaim i).flag i .noFlush).updHead i fun h => { h with applied := 0, phase := .pressed }
  | .idle | .seated | .capHeld | .pressed | .torquing | .releasing => s

/-- A SETUP not done at torque start: a pending or deferred SETUP is withdrawn and DRIVE_LATE is set. A SETUP running on
the link cannot be withdrawn and completes for the cycle (R21, R104; log 12). -/
def State.driveLate (s : State) (i : LocalHead) : State :=
  (s.updSlot i fun d => d.withdraw .setup).flag i .driveLate

/-- Torque start (R21). -/
def State.torqueStart (s : State) (i : LocalHead) : State :=
  if (s.head i).phase = .pressed then
    let t := s.markJog i
    ((if (s.head i).setupDone then t else t.driveLate i).request i .start).setPhase i .torquing
  else s

/-- Whether a head's START is still pending, or deferred behind a STOP (R22, R97). -/
def State.startWaits (s : State) (i : LocalHead) : Bool :=
  isKind .start (s.slot i).pending || isKind .start (s.slot i).deferred

/-- Release (R22). -/
def State.release (s : State) (i : LocalHead) : State :=
  if (s.head i).phase = .torquing then
    let t := s.markJog i
    ((if s.startWaits i then t.flag i .driveFault else t).request i .result).setPhase i .releasing
  else s

/-! ## Crossings -/

/-- The six angle events of a head (R12). -/
inductive AngleEvent where
  | infeed | capPick | flushStart | seat | torqueStart | release
  deriving DecidableEq, Repr

/-- How far past its head's infeed an event lies, in counts (R12). -/
def AngleEvent.offset (u : Setup) : AngleEvent → Nat
  | .infeed => 0
  | .capPick => u.aC
  | .flushStart => u.aFs
  | .seat => u.aS
  | .torqueStart => u.aT
  | .release => u.aR

/-- The position of a head's event (R12). -/
def State.eventPosition (s : State) (i : LocalHead) (e : AngleEvent) : Nat :=
  (s.globalHead i * s.pc + e.offset s.setup) % s.setup.E

/-- The event of a head that lies at the present position, if any (R12). -/
def State.eventHere (s : State) (i : LocalHead) : Option AngleEvent :=
  [AngleEvent.infeed, .capPick, .flushStart, .seat, .torqueStart, .release].find? fun e =>
    s.eventPosition i e == s.ttu.x

/-- An angle event goes to the HCU of its head (R12). -/
def State.takeAngle (s : State) (i : LocalHead) (jp cp : BitVec 4) : AngleEvent → State
  | .infeed => s.infeedPass i (sensor jp i)
  | .capPick => s.capPick i (sensor cp i)
  | .flushStart => s.flushStart i
  | .seat => s.seat i
  | .torqueStart => s.torqueStart i
  | .release => s.release i

/-- The event of one head at the present position is taken. -/
def State.raiseEvent (jp cp : BitVec 4) (i : LocalHead) (s : State) : State :=
  match s.eventHere i with
  | some e => s.takeAngle i jp cp e
  | none => s

/-- The present position is a pitch boundary: 0, pc, 2 × pc, up to E − pc (R9). -/
def State.atBoundary (s : State) : Bool :=
  s.ttu.x % s.pc == 0

/-- The cold stop is due (R11), or was due at the moment of a crossing that was taken first (R54). -/
def State.coldStopDue (s : State) : Bool :=
  s.joined
    && (s.ttu.coldWaits || !s.ttu.coldFired && decide (s.ttu.coldStart + s.setup.Tcold * Config.second ≤ s.now))

/-- A new forward crossing of a pitch boundary (R9). A cold stop due at the same moment comes after it: the pass is taken
first, and the next jar carries the extension (R54). -/
def Ttu.boundary (t : Ttu) (now : Nat) (coldDue : Bool) : Ttu :=
  { t with
    tPitch := if t.pitchCount = 0 then t.tPitch else min Config.turretStopped (now - t.pitchStart),
    pitchStart := now, pitchCount := min 65535 (t.pitchCount + 1), coldStart := now, coldFired := false,
    coldWaits := coldDue }

/-- A new crossing of the present position: pitch boundary, angle events, and the remaining times of the waiting claims
(R2, R9, R12, R73). -/
def State.crossing (s : State) (jp cp : BitVec 4) : State :=
  let t : State := if s.atBoundary then { s with ttu := s.ttu.boundary s.now s.coldStopDue } else s
  (t.eachOwned (State.raiseEvent jp cp)).recheckClaims

/-- The position moves one count forward; lag is taken up first, and otherwise the position arrived at is crossed (R2). -/
def State.forwardMove (s : State) (jp cp : BitVec 4) : State :=
  let t : State := { s with ttu := { s.ttu with x := (s.ttu.x + 1) % s.setup.E, lag := s.ttu.lag - 1 } }
  if s.ttu.lag = 0 then t.crossing jp cp else t

/-- The direction indicator takes a count's direction (R2). -/
def State.setDir (s : State) (d : Direction) : State :=
  { s with ttu := { s.ttu with dir := d } }

/-- FORWARD_COUNT after the join (R1, R2). -/
def State.forwardCount (s : State) (jp cp : BitVec 4) : State :=
  let t := s.setDir .forward
  if s.ttu.referenced then t.forwardMove jp cp else t

/-- A count that begins a reverse movement latches CYCLE_ABORTED (R8). -/
def State.beginReverse (s : State) (before : Direction) : State :=
  if before = .forward then s.latch .cycleAborted else s

/-- REVERSE_COUNT after the join (R2, R8). -/
def State.reverseCount (s : State) : State :=
  let t := s.setDir .reverse
  if s.ttu.referenced then
    let u : State := { t with ttu := { t.ttu with
      x := (t.ttu.x + t.setup.E - 1) % t.setup.E, lag := min t.setup.E (t.ttu.lag + 1), pitchCount := 0 } }
    (u.abortAll).beginReverse s.ttu.dir
  else t.beginReverse s.ttu.dir

/-- ILLEGAL_QUADRATURE_STEP after the join (R3). -/
def State.illegalStep (s : State) : State :=
  if s.ttu.referenced then
    let t := (s.latch .encoderFault).abortAll
    { t with ttu := { t.ttu with referenced := false, lag := 0, pitchCount := 0 } }
  else s.latch .encoderFault

/-- The position is 0 with no lag and no pitch in progress (R5, R7). -/
def Ttu.zeroed (t : Ttu) : Ttu :=
  { t with x := 0, lag := 0, pitchCount := 0, referenced := true }

/-- The offset of the position from 0, the shorter way round (R6). -/
def State.markOffset (s : State) : Nat :=
  if s.ttu.x ≤ s.setup.E / 2 then s.ttu.x else s.setup.E - s.ttu.x

/-- A correction back: x moves to 0 and the lag grows by the offset, holding at E (R6). -/
def State.correctBack (s : State) : State :=
  { s with ttu := { s.ttu with x := 0, lag := min s.setup.E (s.ttu.lag + s.ttu.x) } }

/-- A correction forward by `n` counts (R6); the direction indicator is left as it is (log 15). -/
def State.correctForward (jp cp : BitVec 4) : Nat → State → State
  | 0, s => s
  | n + 1, s => correctForward jp cp n (s.forwardMove jp cp)

/-- A zero-mark fault (R7). -/
def State.zeroMarkFault (s : State) : State :=
  let t := (s.latch .encoderFault).abortAll
  { t with ttu := t.ttu.zeroed }

/-- ZERO_MARK after the join (R5, R6, R7). -/
def State.zeroMark (s : State) (jp cp : BitVec 4) : State :=
  if !s.ttu.referenced then { s with ttu := s.ttu.zeroed }
  else if 2 < s.markOffset then s.zeroMarkFault
  else if s.ttu.x = 0 then s
  else if s.ttu.x ≤ s.setup.E / 2 then s.correctBack
  else s.correctForward jp cp s.markOffset

/-- The pitch timeout is due: 4,000,000 µs since the pitch start with no new boundary and a pitch count of 1 or more
(R10). -/
def State.pitchTimeoutDue (s : State) : Bool :=
  s.joined && decide (1 ≤ s.ttu.pitchCount) && decide (s.ttu.pitchStart + Config.turretStopped ≤ s.now)

/-- PITCH_TIMEOUT (R10); t_pitch changes, so the waiting claims' remaining times are recomputed (R73). -/
def State.pitchTimeout (s : State) : State :=
  if s.pitchTimeoutDue then
    State.recheckClaims { s with ttu := { s.ttu with tPitch := Config.turretStopped } }
  else s

/-- COLD_STOP (R11). One that comes after the crossing of its moment sets cold-stop fired as any other (DEDUCED,
log 32). -/
def State.coldStop (s : State) : State :=
  if s.coldStopDue then
    let t : State := { s with ttu := { s.ttu with coldFired := true, coldWaits := false } }
    t.eachOwned fun i u => u.updHead i fun h => { h with purgePending := true }
  else s

end Sys2Proof.Machine
end

