-- ==== Sys2Proof/Machine/Verdicts.lean ====
section
/-!
DEFINITION. The Verdict Unit (07): a verdict and its match, the trim and the dud count, expiry, and the return of a head
to service.
-/
namespace Sys2Proof.Machine

/-! ## Verdicts -/

/-- A matched verdict may teach: no known-cause flag, head not benched, station not in JOG (R135, R138). -/
def State.mayTeach (s : State) (i : LocalHead) (e : AwaitingEntry) : Bool :=
  !hasKnownCause e.flags && (s.head i).bench.isNone && s.sc.mode != .jog

/-- The head's goods or duds counter moves (R133). -/
def HeadCounters.countFinding (c : HeadCounters) : Finding → HeadCounters
  | .good => { c with goods := bump c.goods }
  | .dud => { c with duds := bump c.duds }
  | .unreadable => c

/-- Stages 1 to 4 of a match: entry, run, last matched dwell, counter (R133). -/
def State.matchEntry (s : State) (i : LocalHead) (e : AwaitingEntry) (f : Finding) : State :=
  let t : State := { s with vu := { s.vu with
    awaiting := s.vu.awaiting.filter fun a => a.seq != e.seq, noVerdictRun := 0 } }
  (t.updLearned i fun v => { v with lastDwell := e.applied }).updCounters i fun c => c.countFinding f

/-- The dud count moved by a verdict that may move it (R138). -/
def dudsAfter (duds : Nat) : Finding → Nat
  | .good => 0
  | .dud => min Config.dudMax (duds + 1)
  | .unreadable => duds

/-- The trim and the dud count after a verdict that may teach (R136, R138); an UNREADABLE moves neither. -/
def VerdictSlot.teach (v : VerdictSlot) (p : Profile) (f : Finding) (depth : Nat) : VerdictSlot :=
  { v with
    trim := if f = .unreadable then v.trim else trimAfter v.trim p.target depth p.G p.stepMax,
    duds := dudsAfter v.duds f }

/-- Stages 5 and 6 of a match: trim, dud count, and the bench a DUD may ask for (R133, R136 to R139). -/
def State.teach (s : State) (i : LocalHead) (e : AwaitingEntry) (f : Finding) (depth : Nat) : State :=
  let p := s.profile e.profile
  let t := s.updLearned i fun v => v.teach p f depth
  if f = .dud ∧ 0 < p.Nb ∧ p.Nb ≤ (t.learned i).duds then t.benchHead i .duds else t

/-- A matched verdict (R133). -/
def State.matchVerdict (s : State) (i : LocalHead) (e : AwaitingEntry) (f : Finding) (depth : Nat) : State :=
  let t := s.matchEntry i e f
  if s.mayTeach i e then t.teach i e f depth else t

/-- The arrival of a VERDICT (R130, R131, R132). -/
def State.takeVerdict (s : State) (src : Address) (p : BitVec 56) : State :=
  if !s.joined || s.roleOf src != some .detector then s
  else if verdictCapper p ≠ s.addr.toNat then s
  else match s.vu.awaiting.find? fun e => e.seq == verdictSeq p with
    | none => s.count fun c => { c with lateVerdicts := bump c.lateVerdicts }
    | some e =>
      if verdictHead p ≠ e.head then s.count fun c => { c with mismatches := bump c.mismatches }
      else match s.localOf e.head with
        | some i => s.matchVerdict i e (verdictFinding p) (verdictDepth p)
        | none => s

/-! ## Expiry -/

/-- The no-verdict run after one expiry; the sixteenth latches DETECTOR_SILENT and sets it back to 0 (R129). -/
def State.noVerdict (s : State) : State :=
  if Config.silentRun ≤ s.vu.noVerdictRun + 1 then
    ({ s with vu := { s.vu with noVerdictRun := 0 } } : State).latch .detectorSilent
  else { s with vu := { s.vu with noVerdictRun := s.vu.noVerdictRun + 1 } }

/-- An entry's Lv seconds are over (R128). -/
def State.entryExpired (s : State) (e : AwaitingEntry) : Bool :=
  decide (e.cappedAt + s.setup.Lv * Config.second ≤ s.now)

/-- VERDICT_EXPIRY of the oldest entry (R128). -/
def State.verdictExpiry (s : State) : State :=
  match s.vu.awaiting with
  | [] => s
  | e :: rest =>
    if s.entryExpired e then
      let t : State := { s with vu := { s.vu with awaiting := rest } }
      let u := match s.localOf e.head with
        | some i => t.updCounters i fun c => { c with noVerdicts := bump c.noVerdicts }
        | none => t
      u.noVerdict
    else s

/-! ## Return to service -/

/-- A head in service again: active, drive-failure count 0 (R143). -/
def Head.returned (h : Head) : Head :=
  { h with bench := none, driveFailures := 0 }

/-- The resets of a HEAD_RETURN: at once in STOPPED, held over in JOG (R143, R145). -/
def VerdictSlot.returned (v : VerdictSlot) (jog trimReset : Bool) : VerdictSlot :=
  if jog then { v with dudDue := true, trimDue := v.trimDue || trimReset }
  else { v with duds := 0, trim := if trimReset then 0 else v.trim }

/-- HEAD_RETURN at one head (R142, R143, R144). -/
def State.returnHead (s : State) (trimReset : Bool) (i : LocalHead) : State :=
  if s.sc.mode = .running then s.sendHeadState i .answer
  else ((s.updHead i Head.returned).updLearned i fun v =>
    v.returned (decide (s.sc.mode = .jog)) trimReset).sendHeadState i .ret

/-- The arrival of a HEAD_RETURN (R142). -/
def State.takeReturn (s : State) (src : Address) (p : BitVec 16) : State :=
  if !s.joined || s.roleOf src != some .panel then s
  else if returnTarget p = 255 then s.eachOwned fun i t => t.returnHead (returnTrim p) i
  else match s.localOf (returnTarget p) with
    | some i => s.returnHead (returnTrim p) i
    | none => s

/-! ## Held-over resets -/

/-- The due resets of a head are applied and its due flags cleared (R145). -/
def VerdictSlot.applyDue (v : VerdictSlot) : VerdictSlot :=
  { v with trim := if v.trimDue then 0 else v.trim, duds := if v.dudDue then 0 else v.duds, trimDue := false,
           dudDue := false }

/-- The end of JOG at one head: a head with a due flag has its resets applied and sends a HEAD_STATE (R145). -/
def State.jogEndHead (i : LocalHead) (s : State) : State :=
  if (s.learned i).trimDue || (s.learned i).dudDue then
    (s.updLearned i VerdictSlot.applyDue).sendHeadState i .jogEnd
  else s

/-- The end of JOG (R145). -/
def State.jogEnd (s : State) : State :=
  s.eachOwned State.jogEndHead

end Sys2Proof.Machine
end

