-- ==== Sys2Proof/Machine/Clock.lean ====
section
/-!
DEFINITION. The station's clock: which of its own timers end when, and how time passes. The rows of the table that are
the ends of the part's own timers, the grant of an idle link and the end of a drive transaction, are taken by the block itself when time passes the
moment at which they are due (DESIGN CHOICE, log 3).
-/
namespace Sys2Proof.Machine

/-- The rows that the passing of time brings about. -/
inductive TimedEvent where
  | pitchTimeout
  | coldStop
  | valveClose (i : LocalHead)
  | claimRetry (i : LocalHead)
  | drawExpiry (src : Address) (head : Nat)
  | holdExpiry
  | holdRenewal
  | stloSample
  | silence
  | relistenEnd
  | transactionEnd
  | driveGrant
  | resultWait (i : LocalHead)
  | verdictExpiry
  | joinTimer
  | joinWindow
  deriving DecidableEq, Repr

/-- What a timed row does when it is taken. -/
def TimedEvent.fire (e : TimedEvent) (s : State) : State :=
  match e with
  | .pitchTimeout => s.pitchTimeout
  | .coldStop => s.coldStop
  | .valveClose i => s.valveCloseTime i
  | .claimRetry i => s.claimRetry i
  | .drawExpiry src g => s.drawEntryExpiry src g
  | .holdExpiry => s.holdExpiry
  | .holdRenewal => s.holdRenewal
  | .stloSample => s.stloSample
  | .silence => s.silenceThreshold
  | .relistenEnd => s.relistenEnd
  | .transactionEnd => s.transactionEnd
  | .driveGrant => s.driveGrant
  | .resultWait i => s.resultWaitExpiry i
  | .verdictExpiry => s.verdictExpiry
  | .joinTimer => s.joinTimer
  | .joinWindow => s.joinWindowPass

/-- A row due at a time, where a condition makes it due at all. -/
def dueIf (c : Bool) (t : Nat) (e : TimedEvent) : List (Nat × TimedEvent) :=
  if c then [(t, e)] else []

/-- A row due at the end of a timer, where it runs. -/
def dueAt (t : Option Nat) (e : TimedEvent) : List (Nat × TimedEvent) :=
  match t with
  | some d => [(d, e)]
  | none => []

/-- The end of a head's retry wait, where it runs. -/
def retryEnd (c : Claim) : Option Nat :=
  match c.state with
  | .retry t => some t
  | .none | .queued | .onBus _ => none

/-- The timed rows of one head (R19, R72, R95). -/
def State.headTimers (s : State) (i : LocalHead) : List (Nat × TimedEvent) :=
  dueIf (decide ((s.head i).phase = .flushing) && (s.head i).valveOpen) (s.head i).valveCloseAt (.valveClose i)
    ++ dueAt (retryEnd (s.claim i)) (.claimRetry i)
    ++ dueAt (s.slot i).resultWait (.resultWait i)

/-- The end of the join window, where it runs (R171). -/
def windowEnd : JoinWindow → Option Nat
  | .running t => some t
  | .notStarted | .passed => none

/-- The expiry of the oldest awaiting-verdict entry (R128). -/
def State.expiryTimer (s : State) : List (Nat × TimedEvent) :=
  match s.vu.awaiting with
  | e :: _ => [(e.cappedAt + s.setup.Lv * Config.second, .verdictExpiry)]
  | [] => []

/-- Every timed row that is due at some time, as the state stands. Among rows due at one time the first listed is taken
first (DESIGN CHOICE, log 3: the spec allows either order). No timer runs during a reset. -/
def State.timers (s : State) : List (Nat × TimedEvent) :=
  if s.sc.inReset then []
  else
    s.headTimers 0 ++ s.headTimers 1 ++ s.headTimers 2 ++ s.headTimers 3
      ++ s.sdu.table.map (fun e => (e.endAt, .drawExpiry e.src e.head))
      ++ dueAt s.sdu.hold .holdExpiry ++ dueAt s.sdu.renewal .holdRenewal ++ dueAt s.sdu.relisten .relistenEnd
      ++ dueIf s.stloDue s.now .stloSample
      ++ dueIf (s.capping && !s.sdu.isolated) (s.lbi.silenceStart + Config.silenceLimit) .silence
      ++ dueIf (s.joined && decide (1 ≤ s.ttu.pitchCount) && decide (s.ttu.tPitch ≠ Config.turretStopped))
          (s.ttu.pitchStart + Config.turretStopped) .pitchTimeout
      ++ dueIf (s.joined && !s.ttu.coldFired) (s.ttu.coldStart + s.setup.Tcold * Config.second) .coldStop
      ++ dueIf (s.joined && s.ttu.coldWaits) s.now .coldStop
      ++ s.expiryTimer
      ++ dueAt (s.dlc.current.map (·.endsAt)) .transactionEnd
      ++ dueIf (s.dlc.current.isNone && s.granted.isSome) s.now .driveGrant
      ++ (if s.joined then [] else dueAt s.sc.joinTimer .joinTimer)
      ++ dueAt (windowEnd s.sc.window) .joinWindow

/-- The earliest row of a list, the first listed among those of one time. -/
def earliest : List (Nat × TimedEvent) → Option (Nat × TimedEvent)
  | [] => none
  | x :: xs => match earliest xs with
    | some y => if y.1 < x.1 then some y else some x
    | none => some x

/-- The clock stands at a time. -/
def State.setNow (s : State) (t : Nat) : State :=
  { s with now := t }

/-- Time passes to `target`: every row due before then is taken at its time, the earliest first. -/
def State.passTo (target : Nat) : Nat → State → State
  | 0, s => s.setNow target
  | n + 1, s => match earliest s.timers with
    | some (d, e) => if d < target then passTo target n (e.fire (s.setNow (max s.now d))) else s.setNow target
    | none => s.setNow target

/-- `dt` µs pass. The bound on the number of rows taken is more than can fall due: 512 at one moment and one a µs. -/
def State.elapse (s : State) (dt : Nat) : State :=
  if dt = 0 then s else s.passTo (s.now + dt) (dt + 512)

/-- A command acts at its moment, and only on a part that is not in reset (R26, R107, R108; log 7). -/
def State.whenLive (s : State) (dt : Nat) (f : State → State) : State :=
  let t := s.elapse dt
  if t.sc.inReset then t else f t

/-- A command of the turret acts after the join only: in JOINING the TTU is inactive (R1). -/
def State.whenJoined (s : State) (dt : Nat) (f : State → State) : State :=
  s.whenLive dt fun t => if t.joined then f t else t

end Sys2Proof.Machine
end

