-- ==== Sys2Proof/Machine/BusCommands.lean ====
section
/-!
DEFINITION. The meanings of the commands of the line bus (09). Each lets the time before it pass and then acts (log 1).
-/
namespace Sys2Proof.Machine

/-- FRAME_CONTENTION_START (R160). -/
def execFrameContentionStart (dt : Nat) (s : State) : Host.Outcome State Fault Refusal :=
  .next (s.whenLive dt State.contentionStart)

/-- LOST_CONTENTION (R160, R161). -/
def execLostContention (r : BitReading) (s : State) : Host.Outcome State Fault Refusal :=
  .next (s.whenLive r.dt fun t => t.lostContention r.bit r.level)

/-- TRANSMIT_ERROR (R160, R161, R166). -/
def execTransmitError (r : BitReading) (s : State) : Host.Outcome State Fault Refusal :=
  .next (s.whenLive r.dt fun t => t.transmitError r.bit r.level)

/-- BAD_FRAME_RECEIVED (R166). -/
def execBadFrameReceived (dt : Nat) (r : FrameRead) (s : State) : Host.Outcome State Fault Refusal :=
  .next (s.whenLive dt fun t => t.badReceived r)

/-- UNOWNED_FRAME (R167). -/
def execUnownedFrame (dt : Nat) (src : Address) (kind : BitVec 5) (payload : List Byte) (s : State) :
    Host.Outcome State Fault Refusal :=
  .next (s.whenLive dt fun t => t.receiveUnowned src kind.toNat payload)

/-- BUS_IDLE_SEEN (R166, R171). -/
def execBusIdleSeen (dt : Nat) (s : State) : Host.Outcome State Fault Refusal :=
  .next (s.whenLive dt State.busIdleSeen)

/-- START_BIT (R160, R166). -/
def execStartBit (dt : Nat) (s : State) : Host.Outcome State Fault Refusal :=
  .next (s.whenLive dt State.startBit)

/-- CONTENTION_WON (R70, R165). -/
def execContentionWon (dt : Nat) (s : State) : Host.Outcome State Fault Refusal :=
  .next (s.whenLive dt State.contentionWon)

end Sys2Proof.Machine
end

