-- ==== Sys2Proof/Machine/JoinCommands.lean ====
section
/-!
DEFINITION. The meanings of the commands of joining the line (10). Each lets the time before it pass and then acts
(log 1).
-/
namespace Sys2Proof.Machine

/-- JOIN (R172, R175, R176). -/
def execJoin (dt : Nat) (src : Address) (p : BitVec 24) (s : State) : Host.Outcome State Fault Refusal :=
  .next (s.whenLive dt fun t => t.receiveJoin src p)

/-- JOIN_TIMER (R171). -/
def execJoinTimer (dt : Nat) (s : State) : Host.Outcome State Fault Refusal :=
  .next (s.whenLive dt State.joinTimer)

/-- JOIN_WINDOW_PASS (R176). -/
def execJoinWindowPass (dt : Nat) (s : State) : Host.Outcome State Fault Refusal :=
  .next (s.whenLive dt State.joinWindowPass)

/-- SETUP (R173, R176, R177). -/
def execSetup (dt : Nat) (src : Address) (p : BitVec 64) (s : State) : Host.Outcome State Fault Refusal :=
  .next (s.whenLive dt fun t => t.receive src fun u => u.takeSetup src p)

/-- PROFILE (R174, R176, R177). -/
def execProfile (dt : Nat) (src : Address) (p : BitVec 64) (s : State) : Host.Outcome State Fault Refusal :=
  .next (s.whenLive dt fun t => t.receive src fun u => u.takeProfile src p)

/-- JOIN_ECHO (R167, R171). -/
def execJoinEcho (dt : Nat) (s : State) : Host.Outcome State Fault Refusal :=
  .next (s.whenLive dt State.receiveJoinEcho)

end Sys2Proof.Machine
end

