-- ==== Sys2Proof/Machine/LinkCommands.lean ====
section
/-!
DEFINITION. The meanings of the commands of the drive link (05). Each lets the time before it pass and then acts (log
1).
-/
namespace Sys2Proof.Machine

/-- DRIVE_GRANT (R97, R99). -/
def execDriveGrant (dt : Nat) (s : State) : Host.Outcome State Fault Refusal :=
  .next (s.whenLive dt State.driveGrant)

/-- DRIVE_TRANSACTION_COMPLETE (R94, R101 to R103). -/
def execDriveTransactionComplete (dt : Nat) (reply : BitVec 48) (s : State) : Host.Outcome State Fault Refusal :=
  .next (s.whenLive dt fun t => t.transactionComplete reply)

/-- RESULT_WAIT_EXPIRY (R95). -/
def execResultWaitExpiry (dt : Nat) (i : LocalHead) (s : State) : Host.Outcome State Fault Refusal :=
  .next (s.whenLive dt fun t => t.resultWaitExpiry i)

end Sys2Proof.Machine
end

