-- ==== Sys2Proof/Machine/Modes.lean ====
section
/-!
DEFINITION. Station Control's panel frames: line modes and LINE_CLEAR (08), notices and counters (11).
-/
namespace Sys2Proof.Machine

/-- A frame comes from a PANEL source in the roster and the station has joined (R148, R154, R180, R181). -/
def State.fromPanel (s : State) (src : Address) : Bool :=
  s.joined && s.roleOf src == some .panel

/-- A target address names this station, or all (R154, R180, R181). -/
def State.targeted (s : State) (a : Nat) : Bool :=
  decide (a = s.addr.toNat ∨ a = 255)

/-! ## Line modes -/

/-- The station mode becomes `m`. -/
def State.setMode (s : State) (m : StationMode) : State :=
  { s with sc := { s.sc with mode := m } }

/-- What a change of mode does at once (R149): the hold of a header already low at a change out of STOPPED (R81), the
held-over resets at a change out of JOG (R145). -/
def State.changeMode (s : State) (m : StationMode) : State :=
  let t := s.setMode m
  if s.sc.mode = .stopped ∧ t.holdCalled then t.sendHold
  else if s.sc.mode = .jog then t.jogEnd
  else t

/-- The arrival of a LINE_MODE (R148, R149). -/
def State.takeLineMode (s : State) (src : Address) (p : BitVec 8) : State :=
  if !s.fromPanel src then s
  else match lineModeOf p with
    | none => s
    | some m => if s.sc.mode = m then s else s.changeMode m

/-! ## LINE_CLEAR -/

/-- The queues emptied, the no-verdict run at 0 (R155). -/
def State.emptied (s : State) : State :=
  { s with rq := [], vu := { s.vu with awaiting := [], noVerdictRun := 0 } }

/-- The counters option: every station counter and every owned head's counters (R156). -/
def State.clearCounts (s : State) : State :=
  ({ s with counters := .zero } : State).eachOwned fun i t => t.updCounters i fun _ => .zero

/-- The trims option at one head: at once in STOPPED, held over in JOG (R156, R145). -/
def State.clearTrim (i : LocalHead) (s : State) : State :=
  s.updLearned i fun v => if s.sc.mode = .jog then { v with trimDue := true } else { v with trim := 0 }

/-- A taken LINE_CLEAR (R155, R156). -/
def State.lineClear (s : State) (counters trims : Bool) : State :=
  let t := s.emptied.clearNotices 0xFFFF
  let u := if counters then t.clearCounts else t
  if trims then u.eachOwned State.clearTrim else u

/-- The arrival of a LINE_CLEAR (R154). -/
def State.takeLineClear (s : State) (src : Address) (p : BitVec 16) : State :=
  if s.fromPanel src && s.sc.mode != .running && s.targeted (clearTarget p) then
    s.lineClear (clearCounters p) (clearTrims p)
  else s

/-! ## Notices -/

/-- A notice frame is taken (R180). -/
def State.noticeTaken (s : State) (src : Address) (p : BitVec 24) : Bool :=
  s.fromPanel src && s.targeted (noticeTarget p)

/-- The arrival of a NOTICE_CLEAR (R180). -/
def State.takeNoticeClear (s : State) (src : Address) (p : BitVec 24) : State :=
  if s.noticeTaken src p then s.clearNotices (noticeWord p) else s

/-- The arrival of a NOTICE_MASK_SET (R180). -/
def State.takeMaskSet (s : State) (src : Address) (p : BitVec 24) : State :=
  if s.noticeTaken src p then s.changeMask (s.sc.mask ||| noticeWord p) else s

/-- The arrival of a NOTICE_MASK_CLEAR (R179, R180). -/
def State.takeMaskClear (s : State) (src : Address) (p : BitVec 24) : State :=
  if s.noticeTaken src p then s.changeMask (s.sc.mask &&& ~~~(noticeWord p)) else s

/-! ## Counters -/

/-- A signed value as the 16 bits that carry it (R181, R183). -/
def signedWord (v : Int) : Nat :=
  (BitVec.ofInt 16 v).toNat

/-- The three values of a station group (R181). -/
def Counters.group (c : Counters) : Nat → Option (Nat × Nat × Nat)
  | 0 => some (c.badFrames, c.txDrops, c.underruns)
  | 1 => some (c.overruns, c.duplicates, c.lateRecords)
  | 2 => some (c.surplus, c.orphans, c.badRecords)
  | 3 => some (c.evictions, c.lateVerdicts, c.mismatches)
  | 4 => some (c.claimsRefused, 0, 0)
  | _ => none

/-- The three values of a head's group `k`, 0 to 3 (R181). -/
def headGroup (c : HeadCounters) (v : VerdictSlot) : Nat → Option (Nat × Nat × Nat)
  | 0 => some (c.seated, c.cappedOk, c.cappedSuspect)
  | 1 => some (c.notCapped, c.goods, c.duds)
  | 2 => some (c.noVerdicts, c.shortFlushes, c.noFlushes)
  | 3 => some (c.driveFaults, v.duds, signedWord v.trim)
  | _ => none

/-- The values of a group, if it is known: the station's groups 0 to 4, and 16 + 4h to 19 + 4h for h below HC (R181). -/
def State.groupValues (s : State) (g : Nat) : Option (Nat × Nat × Nat) :=
  if g < 16 then s.counters.group g
  else if (g - 16) / 4 < s.hc then
    let i : LocalHead := Fin.ofNat 4 ((g - 16) / 4)
    headGroup (s.headCounters.get i) (s.learned i) ((g - 16) % 4)
  else none

/-- The arrival of a COUNTER_REQUEST (R181, R182). -/
def State.takeRequest (s : State) (src : Address) (p : BitVec 16) : State :=
  if s.fromPanel src && s.targeted (requestTarget p) then
    match s.groupValues (requestGroup p) with
    | some (a, b, c) => s.handIn (.counterReply (requestGroup p) a b c)
    | none => s
  else s

end Sys2Proof.Machine
end

