-- ==== Sys2Proof/Machine/PanelCommands.lean ====
section
/-!
DEFINITION. The meanings of the commands of the panel (08, 11): line modes, LINE_CLEAR, notices and counters. Each
lets the time before it pass and then acts (log 1).
-/
namespace Sys2Proof.Machine

/-- LINE_MODE (R148, R149). -/
def execLineMode (dt : Nat) (src : Address) (p : BitVec 8) (s : State) : Host.Outcome State Fault Refusal :=
  .next (s.whenLive dt fun t => t.receive src fun u => u.takeLineMode src p)

/-- LINE_CLEAR (R154 to R156). -/
def execLineClear (dt : Nat) (src : Address) (p : BitVec 16) (s : State) : Host.Outcome State Fault Refusal :=
  .next (s.whenLive dt fun t => t.receive src fun u => u.takeLineClear src p)

/-- NOTICE_CLEAR (R178, R180). -/
def execNoticeClear (dt : Nat) (src : Address) (p : BitVec 24) (s : State) : Host.Outcome State Fault Refusal :=
  .next (s.whenLive dt fun t => t.receive src fun u => u.takeNoticeClear src p)

/-- NOTICE_MASK_SET (R180). -/
def execNoticeMaskSet (dt : Nat) (src : Address) (p : BitVec 24) (s : State) : Host.Outcome State Fault Refusal :=
  .next (s.whenLive dt fun t => t.receive src fun u => u.takeMaskSet src p)

/-- NOTICE_MASK_CLEAR (R179, R180). -/
def execNoticeMaskClear (dt : Nat) (src : Address) (p : BitVec 24) (s : State) : Host.Outcome State Fault Refusal :=
  .next (s.whenLive dt fun t => t.receive src fun u => u.takeMaskClear src p)

/-- COUNTER_REQUEST (R181, R182). -/
def execCounterRequest (dt : Nat) (src : Address) (p : BitVec 16) (s : State) : Host.Outcome State Fault Refusal :=
  .next (s.whenLive dt fun t => t.receive src fun u => u.takeRequest src p)

end Sys2Proof.Machine
end

