-- ==== Sys2Proof/Machine/Records.lean ====
section
/-!
DEFINITION. The arrival of a jar record: the checks of R28 to R38 in their order (02, section 2.2).
-/
namespace Sys2Proof.Machine

/-- The capper head of a filler pocket, c = (f + O) mod P (R30). -/
def State.capperHead (s : State) (f : Nat) : Nat :=
  (f + s.setup.O) % s.setup.P

/-- The lead of a record for head `c`: forward counts to its infeed from the furthest position, 0 read as E (R31). -/
def State.lead (s : State) (c : Nat) : Nat :=
  let d := countsTo s.setup.E (c * s.pc) (s.ttu.x + s.ttu.lag)
  if d = 0 then s.setup.E else d

/-- A record for head `c` is within the lead window (R31, R32). -/
def State.inWindow (s : State) (c : Nat) : Bool :=
  s.ttu.referenced && decide (s.ttu.lag < s.setup.E) && decide (s.lead c ≤ s.setup.Lmax * s.pc)

/-- A seq is held by an open cycle of an owned head (R34). -/
def State.heldAtHead (s : State) (q : Nat) (i : LocalHead) : Bool :=
  decide ((s.head i).phase ≠ .idle) && (s.head i).bound.any fun r => r.seq == q

/-- A seq is held: by the queue, an open cycle or the awaiting-verdict table (R34). -/
def State.seqHeld (s : State) (q : Nat) : Bool :=
  s.rq.any (fun r => r.seq == q) || s.owned.any (s.heldAtHead q) || s.vu.awaiting.any fun e => e.seq == q

/-- A product code that names a valid profile, which a record keeps (R36). -/
def State.validProduct (s : State) (code : Nat) : Option ProfileIndex :=
  if code < 8 ∧ s.profileStatus (Fin.ofNat 8 code) = .valid then some (Fin.ofNat 8 code) else none

/-- The record as it is queued, its product code and its values corrected (R36, R37). -/
def State.correctedRecord (s : State) (p : BitVec 64) : JarRecord :=
  { seq := jarSeq p, pocket := jarPocket p, head := s.capperHead (jarPocket p),
    product := (s.validProduct (jarProduct p)).getD 0, mass := min (jarMass p) Config.massMax,
    temp := min (jarTemp p) Config.tempMax,
    range := (s.validProduct (jarProduct p)).isNone || decide (Config.massMax < jarMass p)
      || decide (Config.tempMax < jarTemp p) }

/-- A record is appended; a full queue first drops its oldest record (R38). -/
def State.appendRecord (s : State) (r : JarRecord) : State :=
  if s.rq.length < Config.recordQueueSize then { s with rq := s.rq ++ [r] }
  else
    let t := (({ s with rq := s.rq.drop 1 } : State).count fun c => { c with overruns := bump c.overruns }).latch
      .recordOverrun
    { t with rq := t.rq ++ [r] }

/-- A record that is not bad and whose head is owned: lead, duplicate, corrections, capacity (R31 to R38). -/
def State.queueRecord (s : State) (p : BitVec 64) : State :=
  if !s.inWindow (s.capperHead (jarPocket p)) then s.count fun c => { c with lateRecords := bump c.lateRecords }
  else if s.seqHeld (jarSeq p) then s.count fun c => { c with duplicates := bump c.duplicates }
  else s.appendRecord (s.correctedRecord p)

/-- The arrival of a JAR_RECORD (R28, R29, R30). -/
def State.takeRecord (s : State) (src : Address) (p : BitVec 64) : State :=
  if !s.joined || s.roleOf src != some .filler then s
  else if jarSeq p = Config.noSeq ∨ s.setup.P ≤ jarPocket p then
    s.count fun c => { c with badRecords := bump c.badRecords }
  else if (s.localOf (s.capperHead (jarPocket p))).isNone then s
  else s.queueRecord p

end Sys2Proof.Machine
end

