-- ==== Sys2Proof/Machine/RecordCommands.lean ====
section
/-!
DEFINITION. The meanings of the commands of jar records (02). Each lets the time before it pass and then acts (log 1).
-/
namespace Sys2Proof.Machine

/-- JAR_RECORD (R28 to R38). -/
def execJarRecord (dt : Nat) (src : Address) (p : BitVec 64) (s : State) : Host.Outcome State Fault Refusal :=
  .next (s.whenLive dt fun t => t.receive src fun u => u.takeRecord src p)

end Sys2Proof.Machine
end

