-- ==== Sys2Proof/Machine/Resets.lean ====
section
/-!
DEFINITION. Resets: the supply falling, the reset pin, and the end of a reset (R26, R44, R64, R89, R90, R107, R108,
R125, R169, R170).
-/
namespace Sys2Proof.Machine

/-- A head at a reset: its cycle ends without a report and its valve closes (R26). -/
def Head.cut (h : Head) : Head :=
  { h.endCycle with valveOpen := false }

/-- What every reset ends at once: the open cycles, the valves, the drive transactions and requests, the frame in
flight; the part drives neither the bus nor a select line (R26, R107, R108, R169, 12.3). -/
def State.beginReset (s : State) : State :=
  { s with
    heads := s.heads.map Head.cut, dlc := .atReset,
    lbi := { s.lbi with inFlight := none, receive := .waitingIdle, errorCounted := false },
    sc := { s.sc with inReset := true } }

/-- SUPPLY_LOW: a POWER_ON reset begins (R26, R108, R170). -/
def State.supplyLow (s : State) : State :=
  let t := s.beginReset
  { t with sc := { t.sc with supplyLow := true } }

/-- RESET_PIN: the transmit queue is emptied and the held-over resets are applied (R107, R145, R169). -/
def State.resetPin (s : State) : State :=
  let t := s.beginReset
  { t with lbi := { t.lbi with queue := [] }, vu := { t.vu with slots := t.vu.slots.map VerdictSlot.applyDue } }

/-- What the reset pin leaves of a head (R13). -/
def Head.afterPin (h : Head) : Head :=
  { Head.atPowerOn with bench := h.bench }

/-- What the reset pin leaves of a head's learned state (R125). -/
def VerdictSlot.afterPin (v : VerdictSlot) : VerdictSlot :=
  { v with lastDwell := 0, trimDue := false, dudDue := false }

/-- The end of a reset by the pin: the learned and counted state is kept (R13, R44, R64, R90, R125, R169, R178). -/
def State.afterPin (s : State) (straps : Straps) : State :=
  { s with
    ttu := .atReset s.now, heads := s.heads.map Head.afterPin, rq := [], sdu := .atReset, dlc := .atReset,
    vu := { awaiting := [], slots := s.vu.slots.map VerdictSlot.afterPin, noVerdictRun := 0 },
    lbi := .atReset s.now s.lbi.nextAge, sc := .atReset .pin straps }

/-- RESET_END: the straps are read, the cause is recorded, and the station is in JOINING with every block at its reset
values (R147, R170). Where no reset runs there is none to end (log 4). -/
def State.resetEnd (s : State) (straps : Straps) : State :=
  if !s.sc.inReset then s
  else if s.sc.supplyLow then { State.atPowerOn s.now straps with pending := s.pending }
  else s.afterPin straps

end Sys2Proof.Machine
end

