-- ==== Sys2Proof/Machine/ResetCommands.lean ====
section
/-!
DEFINITION. The meanings of the commands of supply and reset (R107, R108, R170). Each lets the time before it pass and
then acts (log 1).
-/
namespace Sys2Proof.Machine

/-- SUPPLY_LOW (R26, R108, R170). -/
def execSupplyLow (dt : Nat) (s : State) : Host.Outcome State Fault Refusal :=
  .next ((s.elapse dt).supplyLow)

/-- RESET_PIN (R26, R107, R145, R169). -/
def execResetPin (dt : Nat) (s : State) : Host.Outcome State Fault Refusal :=
  .next ((s.elapse dt).resetPin)

/-- RESET_END (R13, R147, R170). -/
def execResetEnd (dt : Nat) (addr : Address) (hcPins : BitVec 2) (fh : BitVec 6) (s : State) :
    Host.Outcome State Fault Refusal :=
  .next ((s.elapse dt).resetEnd { addr := addr, hcPins := hcPins, fhPins := fh })

end Sys2Proof.Machine
end

