-- ==== Sys2Proof/Machine/SteamCommands.lean ====
section
/-!
DEFINITION. The meanings of the commands of the shared steam (04). Each lets the time before it pass and then acts
(log 1).
-/
namespace Sys2Proof.Machine

/-- VALVE_CLOSE_TIME (R19, R75). -/
def execValveCloseTime (dt : Nat) (i : LocalHead) (s : State) : Host.Outcome State Fault Refusal :=
  .next (s.whenLive dt fun t => t.valveCloseTime i)

/-- DRAW_CLAIM (R65 to R67, R71, R76, R86, R87). -/
def execDrawClaim (dt : Nat) (src : Address) (p : BitVec 32) (s : State) : Host.Outcome State Fault Refusal :=
  .next (s.whenLive dt fun t => t.receiveClaim src p)

/-- DRAW_END (R65, R69). -/
def execDrawEnd (dt : Nat) (src : Address) (p : BitVec 8) (s : State) : Host.Outcome State Fault Refusal :=
  .next (s.whenLive dt fun t => t.receiveDrawEnd src p)

/-- STEAM_HOLD (R65, R78). -/
def execSteamHold (dt : Nat) (src : Address) (p : BitVec 16) (s : State) : Host.Outcome State Fault Refusal :=
  .next (s.whenLive dt fun t => t.receiveHold src p)

/-- CLAIM_RETRY (R72). -/
def execClaimRetry (dt : Nat) (i : LocalHead) (s : State) : Host.Outcome State Fault Refusal :=
  .next (s.whenLive dt fun t => t.claimRetry i)

/-- DRAW_ENTRY_EXPIRY (R68). -/
def execDrawEntryExpiry (dt : Nat) (src : Address) (head : Nat) (s : State) : Host.Outcome State Fault Refusal :=
  .next (s.whenLive dt fun t => t.drawEntryExpiry src head)

/-- HOLD_EXPIRY (R78, R82). -/
def execHoldExpiry (dt : Nat) (s : State) : Host.Outcome State Fault Refusal :=
  .next (s.whenLive dt State.holdExpiry)

/-- HOLD_RENEWAL (R83). -/
def execHoldRenewal (dt : Nat) (s : State) : Host.Outcome State Fault Refusal :=
  .next (s.whenLive dt State.holdRenewal)

/-- STLO_FALL (R80, R81): the input has stood low for the µs of the reading. -/
def execStloFall (r : StloReading) (s : State) : Host.Outcome State Fault Refusal :=
  .next (s.whenLive r.dt fun t => t.stloFall r.held)

/-- STLO_RISE (R80): the input has stood high for the µs of the reading. -/
def execStloRise (r : StloReading) (s : State) : Host.Outcome State Fault Refusal :=
  .next (s.whenLive r.dt fun t => t.stloRise r.held)

/-- SILENCE_THRESHOLD (R84). -/
def execSilenceThreshold (dt : Nat) (s : State) : Host.Outcome State Fault Refusal :=
  .next (s.whenLive dt State.silenceThreshold)

/-- RELISTEN_END (R87). -/
def execRelistenEnd (dt : Nat) (s : State) : Host.Outcome State Fault Refusal :=
  .next (s.whenLive dt State.relistenEnd)

end Sys2Proof.Machine
end

