-- ==== Sys2Proof/Machine/TurretCommands.lean ====
section
/-!
DEFINITION. The meanings of the commands of the turret (01): encoder counts, zero mark, pitch timeout and cold stop.
Each lets the time before it pass and then acts (log 1).
-/
namespace Sys2Proof.Machine

/-- FORWARD_COUNT (R1, R2). -/
def execForwardCount (dt : Nat) (jp cp : BitVec 4) (s : State) : Host.Outcome State Fault Refusal :=
  .next (s.whenJoined dt fun t => t.forwardCount jp cp)

/-- REVERSE_COUNT (R1, R2, R8). -/
def execReverseCount (dt : Nat) (s : State) : Host.Outcome State Fault Refusal :=
  .next (s.whenJoined dt State.reverseCount)

/-- ILLEGAL_QUADRATURE_STEP (R1, R3). -/
def execIllegalQuadratureStep (dt : Nat) (s : State) : Host.Outcome State Fault Refusal :=
  .next (s.whenJoined dt State.illegalStep)

/-- ZERO_MARK (R1, R4 to R7). -/
def execZeroMark (dt : Nat) (jp cp : BitVec 4) (s : State) : Host.Outcome State Fault Refusal :=
  .next (s.whenJoined dt fun t => t.zeroMark jp cp)

/-- PITCH_TIMEOUT (R10). -/
def execPitchTimeout (dt : Nat) (s : State) : Host.Outcome State Fault Refusal :=
  .next (s.whenLive dt State.pitchTimeout)

/-- COLD_STOP (R11). -/
def execColdStop (dt : Nat) (s : State) : Host.Outcome State Fault Refusal :=
  .next (s.whenLive dt State.coldStop)

end Sys2Proof.Machine
end

