-- ==== Sys2Proof/Machine/VerdictCommands.lean ====
section
/-!
DEFINITION. The meanings of the commands of verdicts and the return of heads (07). Each lets the time before it pass
and then acts (log 1).
-/
namespace Sys2Proof.Machine

/-- VERDICT (R130 to R140). -/
def execVerdict (dt : Nat) (src : Address) (p : BitVec 56) (s : State) : Host.Outcome State Fault Refusal :=
  .next (s.whenLive dt fun t => t.receive src fun u => u.takeVerdict src p)

/-- VERDICT_EXPIRY (R128, R129). -/
def execVerdictExpiry (dt : Nat) (s : State) : Host.Outcome State Fault Refusal :=
  .next (s.whenLive dt State.verdictExpiry)

/-- HEAD_RETURN (R142 to R145). -/
def execHeadReturn (dt : Nat) (src : Address) (p : BitVec 16) (s : State) : Host.Outcome State Fault Refusal :=
  .next (s.whenLive dt fun t => t.receive src fun u => u.takeReturn src p)

end Sys2Proof.Machine
end

