-- ==== Sys2Proof/Machine/Dispatch.lean ====
section
/-!
DEFINITION. Dispatch: one arm per command, each a direct call of its meaning.
-/
namespace Sys2Proof.Machine

/-- The effect of a command on everything but the queue. -/
def exec (i : Instr) (s : State) : Host.Outcome State Fault Refusal :=
  match i with
  | .forwardCount dt jp cp => Sys2Proof.Machine.execForwardCount dt jp cp s
  | .reverseCount dt => Sys2Proof.Machine.execReverseCount dt s
  | .illegalQuadratureStep dt => Sys2Proof.Machine.execIllegalQuadratureStep dt s
  | .zeroMark dt jp cp => Sys2Proof.Machine.execZeroMark dt jp cp s
  | .pitchTimeout dt => Sys2Proof.Machine.execPitchTimeout dt s
  | .coldStop dt => Sys2Proof.Machine.execColdStop dt s
  | .valveCloseTime dt h => Sys2Proof.Machine.execValveCloseTime dt h s
  | .jarRecord dt src p => Sys2Proof.Machine.execJarRecord dt src p s
  | .drawClaim dt src p => Sys2Proof.Machine.execDrawClaim dt src p s
  | .drawEnd dt src p => Sys2Proof.Machine.execDrawEnd dt src p s
  | .steamHold dt src p => Sys2Proof.Machine.execSteamHold dt src p s
  | .claimRetry dt h => Sys2Proof.Machine.execClaimRetry dt h s
  | .drawEntryExpiry dt src head => Sys2Proof.Machine.execDrawEntryExpiry dt src head s
  | .holdExpiry dt => Sys2Proof.Machine.execHoldExpiry dt s
  | .holdRenewal dt => Sys2Proof.Machine.execHoldRenewal dt s
  | .stloFall r => Sys2Proof.Machine.execStloFall r s
  | .stloRise r => Sys2Proof.Machine.execStloRise r s
  | .silenceThreshold dt => Sys2Proof.Machine.execSilenceThreshold dt s
  | .relistenEnd dt => Sys2Proof.Machine.execRelistenEnd dt s
  | .driveGrant dt => Sys2Proof.Machine.execDriveGrant dt s
  | .driveTransactionComplete dt reply => Sys2Proof.Machine.execDriveTransactionComplete dt reply s
  | .resultWaitExpiry dt h => Sys2Proof.Machine.execResultWaitExpiry dt h s
  | .verdict dt src p => Sys2Proof.Machine.execVerdict dt src p s
  | .verdictExpiry dt => Sys2Proof.Machine.execVerdictExpiry dt s
  | .headReturn dt src p => Sys2Proof.Machine.execHeadReturn dt src p s
  | .lineMode dt src p => Sys2Proof.Machine.execLineMode dt src p s
  | .lineClear dt src p => Sys2Proof.Machine.execLineClear dt src p s
  | .join dt src p => Sys2Proof.Machine.execJoin dt src p s
  | .joinTimer dt => Sys2Proof.Machine.execJoinTimer dt s
  | .joinWindowPass dt => Sys2Proof.Machine.execJoinWindowPass dt s
  | .setup dt src p => Sys2Proof.Machine.execSetup dt src p s
  | .profile dt src p => Sys2Proof.Machine.execProfile dt src p s
  | .noticeClear dt src p => Sys2Proof.Machine.execNoticeClear dt src p s
  | .noticeMaskSet dt src p => Sys2Proof.Machine.execNoticeMaskSet dt src p s
  | .noticeMaskClear dt src p => Sys2Proof.Machine.execNoticeMaskClear dt src p s
  | .counterRequest dt src p => Sys2Proof.Machine.execCounterRequest dt src p s
  | .frameContentionStart dt => Sys2Proof.Machine.execFrameContentionStart dt s
  | .lostContention r => Sys2Proof.Machine.execLostContention r s
  | .transmitError r => Sys2Proof.Machine.execTransmitError r s
  | .badFrameReceived dt r => Sys2Proof.Machine.execBadFrameReceived dt r s
  | .unownedFrame dt src kind payload => Sys2Proof.Machine.execUnownedFrame dt src kind payload s
  | .busIdleSeen dt => Sys2Proof.Machine.execBusIdleSeen dt s
  | .supplyLow dt => Sys2Proof.Machine.execSupplyLow dt s
  | .resetPin dt => Sys2Proof.Machine.execResetPin dt s
  | .resetEnd dt addr hcPins fh => Sys2Proof.Machine.execResetEnd dt addr hcPins fh s
  | .startBit dt => Sys2Proof.Machine.execStartBit dt s
  | .contentionWon dt => Sys2Proof.Machine.execContentionWon dt s
  | .joinEcho dt => Sys2Proof.Machine.execJoinEcho dt s

end Sys2Proof.Machine
end

