-- ==== Sys2Proof/Safety.lean ====
section
/-!
DEFINITION. What statements about the station speak of: the pieces of the state and what changes only some of them, the
state a command finds when its time has passed, and the conditions that every step keeps.
-/
namespace Sys2Proof.Machine

/-! ## Pieces of the state -/

/-- The pieces of the state that statements say are left alone. -/
inductive Piece where
  | pending | now | ttu | records | table | hold | renewal | stlo | stloInput | isolation | link | awaiting | silentRun
  | queue | inFlight | receive | silence | mode | resetting | roster | setupParts | profiles | joining
  | addressConflict | latched | mask | badFrames | txDrops | recordCounts | verdictCounts | claimsRefused
  | head (i : LocalHead)
  | headCounts (i : LocalHead)
  | claim (i : LocalHead)
  | slot (i : LocalHead)
  | learned (i : LocalHead)
  deriving DecidableEq, Repr

/-- Two states agree on a piece. -/
def Piece.same (s t : State) : Piece → Prop
  | .pending => t.pending = s.pending
  | .now => t.now = s.now
  | .ttu => t.ttu = s.ttu
  | .records => t.rq = s.rq
  | .table => t.sdu.table = s.sdu.table
  | .hold => t.sdu.hold = s.sdu.hold ∧ t.sdu.origin = s.sdu.origin
  | .renewal => t.sdu.renewal = s.sdu.renewal
  | .stlo => t.sdu.stlo = s.sdu.stlo
  | .stloInput => t.sdu.stloInput = s.sdu.stloInput ∧ t.sdu.stloSince = s.sdu.stloSince
  | .isolation => t.sdu.isolated = s.sdu.isolated ∧ t.sdu.relisten = s.sdu.relisten
  | .link => t.dlc.current = s.dlc.current
  | .awaiting => t.vu.awaiting = s.vu.awaiting
  | .silentRun => t.vu.noVerdictRun = s.vu.noVerdictRun
  | .queue => t.lbi.queue = s.lbi.queue ∧ t.lbi.nextAge = s.lbi.nextAge
  | .inFlight => t.lbi.inFlight = s.lbi.inFlight
  | .receive => t.lbi.receive = s.lbi.receive ∧ t.lbi.errorCounted = s.lbi.errorCounted
  | .silence => t.lbi.silenceStart = s.lbi.silenceStart
  | .mode => t.sc.mode = s.sc.mode
  | .resetting =>
    t.sc.inReset = s.sc.inReset ∧ t.sc.supplyLow = s.sc.supplyLow ∧ t.sc.cause = s.sc.cause ∧ t.sc.straps = s.sc.straps
  | .roster => t.sc.roster = s.sc.roster
  | .setupParts => t.sc.setupParts = s.sc.setupParts
  | .profiles => t.sc.profiles = s.sc.profiles
  | .joining => t.sc.joinTimer = s.sc.joinTimer ∧ t.sc.window = s.sc.window
  | .addressConflict => t.sc.addressConflict = s.sc.addressConflict
  | .latched => t.sc.latched = s.sc.latched
  | .mask => t.sc.mask = s.sc.mask
  | .badFrames => t.counters.badFrames = s.counters.badFrames
  | .txDrops => t.counters.txDrops = s.counters.txDrops
  | .recordCounts =>
    t.counters.underruns = s.counters.underruns ∧ t.counters.overruns = s.counters.overruns
      ∧ t.counters.duplicates = s.counters.duplicates ∧ t.counters.lateRecords = s.counters.lateRecords
      ∧ t.counters.surplus = s.counters.surplus ∧ t.counters.orphans = s.counters.orphans
      ∧ t.counters.badRecords = s.counters.badRecords
  | .verdictCounts =>
    t.counters.evictions = s.counters.evictions ∧ t.counters.lateVerdicts = s.counters.lateVerdicts
      ∧ t.counters.mismatches = s.counters.mismatches
  | .claimsRefused => t.counters.claimsRefused = s.counters.claimsRefused
  | .head i => t.head i = s.head i
  | .headCounts i => t.headCounters.get i = s.headCounters.get i
  | .claim i => t.claim i = s.claim i
  | .slot i => t.slot i = s.slot i
  | .learned i => t.learned i = s.learned i

/-- From `s` to `t` nothing changes but the pieces of a list. -/
def ChangesOnly (ps : List Piece) (s t : State) : Prop :=
  ∀ p, p ∈ ps ∨ p.same s t

/-- What handing a frame in can change, where the frame is not a claim or a hold: the queue, and the count and the notice
of a loss (R162, R163). Latching a notice changes no more than this (R178, R179). -/
def reporting : List Piece :=
  [.queue, .txDrops, .latched]

/-- What a valid frame from another station can change before its owner takes it (R87, R167, R168). -/
def hearing : List Piece :=
  [.receive, .silence, .isolation, .addressConflict] ++ reporting

/-- One piece of each of the four heads. -/
def ofHeads (f : LocalHead → Piece) : List Piece :=
  [f 0, f 1, f 2, f 3]

/-! ## The state a command finds -/

/-- The time that passes before a command acts, in µs (log 1). -/
def elapsedBefore : Instr → Nat
  | .forwardCount dt _ _ | .reverseCount dt | .illegalQuadratureStep dt | .zeroMark dt _ _ | .pitchTimeout dt
  | .coldStop dt | .valveCloseTime dt _ | .jarRecord dt _ _ | .drawClaim dt _ _ | .drawEnd dt _ _
  | .steamHold dt _ _ | .claimRetry dt _ | .drawEntryExpiry dt _ _ | .holdExpiry dt | .holdRenewal dt
  | .stloFall ⟨dt, _⟩ | .stloRise ⟨dt, _⟩ | .silenceThreshold dt | .relistenEnd dt | .driveGrant dt
  | .driveTransactionComplete dt _ | .resultWaitExpiry dt _ | .verdict dt _ _ | .verdictExpiry dt
  | .headReturn dt _ _ | .lineMode dt _ _ | .lineClear dt _ _ | .join dt _ _ | .joinTimer dt
  | .joinWindowPass dt | .setup dt _ _ | .profile dt _ _ | .noticeClear dt _ _ | .noticeMaskSet dt _ _
  | .noticeMaskClear dt _ _ | .counterRequest dt _ _ | .frameContentionStart dt | .lostContention ⟨dt, _, _⟩
  | .transmitError ⟨dt, _, _⟩ | .badFrameReceived dt _ | .unownedFrame dt _ _ _ | .busIdleSeen dt | .supplyLow dt
  | .resetPin dt | .resetEnd dt _ _ _ | .startBit dt | .contentionWon dt | .joinEcho dt => dt

/-- The station as the owner of a frame from another station finds it: the time before the frame has passed, the frame has
been read, and what every valid frame from another station does is done (R87, R166, R167, R168). -/
def State.heard (s : State) (dt : Nat) (src : Address) : State :=
  (s.elapse dt).frameEnd.heardOther src

/-- A frame is read and is no echo of this station's own: its owner takes it as a frame from another station (R166, R167). -/
def State.hears (s : State) (dt : Nat) (src : Address) (kind : FrameKind) (payload : List Byte) : Prop :=
  (s.elapse dt).reads = true ∧ (s.elapse dt).isEcho src kind.code payload = false

/-- A frame is read and is the echo of this station's frame in flight (R161, R167). -/
def State.echoes (s : State) (dt : Nat) (src : Address) (kind : FrameKind) (payload : List Byte) : Prop :=
  (s.elapse dt).reads = true ∧ (s.elapse dt).isEcho src kind.code payload = true

/-- A reset command: the only commands that act while a reset runs (R26, R107, R108, R170; log 7). -/
def actsInReset : Instr → Bool
  | .supplyLow _ | .resetPin _ | .resetEnd _ _ _ _ => true
  | _ => false

/-- From `s` to `u` the rows of a list are taken one after another, each the earliest of its moment and at its time, or at
once where that is past; then none is left that is due before `target`. -/
def State.takesRows (target : Nat) : List (Nat × TimedEvent) → State → State → Prop
  | [], s, u => u = s ∧ ∀ y ∈ s.timers, target ≤ y.1
  | x :: rows, s, u => earliest s.timers = some x ∧ x.1 < target
    ∧ State.takesRows target rows (x.2.fire { s with now := max s.now x.1 }) u

/-! ## Words the statements use -/

/-- In the Line Bus Interface, the count of TX drops and the notice word, `u` stands as `v` does. -/
def State.busSideOf (v u : State) : Prop :=
  u.lbi = v.lbi ∧ u.counters.txDrops = v.counters.txDrops ∧ u.sc.latched = v.sc.latched

/-- On the bus side `u` stands as after `f` was handed in at `s` (R162, R163). -/
def State.queues (s : State) (f : TxFrame) (u : State) : Prop :=
  (s.handIn f).busSideOf u

/-- Jar flags with JOG added where an event is taken in JOG (R113). -/
def State.withJog (s : State) (w : Word) : Word :=
  if s.sc.mode = .jog then setFlag w .jog else w

/-- The claim of a head waits: its frame in the transmit queue, or its RETRY wait runs (R73). -/
def Claim.waits (c : Claim) : Bool :=
  match c.state with
  | .queued | .retry _ => true
  | .none | .onBus _ => false

/-- A head's claim after a withdrawal: none where it waited (R73); a claim ON_BUS stays (R164). -/
def Claim.afterWithdrawal (c : Claim) : Claim :=
  if c.waits then .clear else c

/-- The station with the frame of a head's QUEUED claim taken out of the transmit queue (R164). -/
def State.withoutClaimFrame (s : State) (i : LocalHead) : State :=
  if (s.claim i).state = .queued then
    { s with lbi := { s.lbi with queue := s.lbi.queue.filter fun e => !e.isClaimOf (s.fh + i.val) } }
  else s

/-- From `s` to `u` an active head is benched: its waiting claim is withdrawn (R24), HEAD_BENCHED is latched and a
HEAD_STATE of occasion BENCH is handed in (R140, R141), and nothing else changes. -/
def State.becomesBenched (s : State) (i : LocalHead) (r : BenchReason) (u : State) : Prop :=
  u.head i = { s.head i with
    bench := some r,
    claimsEnded := (s.head i).claimsEnded || decide ((s.head i).phase = .claiming) || (s.claim i).waits }
  ∧ u.claim i = (s.claim i).afterWithdrawal
  ∧ ((s.withoutClaimFrame i).latch .headBenched).queues (.headState {
      head := s.fh + i.val, bench := some r, trim := (s.learned i).trim, duds := (s.learned i).duds,
      lastDwell := (s.learned i).lastDwell, occasion := .bench }) u
  ∧ hasNotice u.sc.latched .headBenched = true
  ∧ ChangesOnly ([.head i, .claim i] ++ reporting) s u

/-- The condition notices, each with whether its condition holds (11, section 11.1; R175, R84, R80). -/
def State.conditions (s : State) : List (Notice × Bool) :=
  [(.addressConflict, s.sc.addressConflict),
   (.headMapConflict, s.sc.roster.any fun e => e.addr != s.addr && e.role == .capper && decide (0 < e.count)
      && decide (e.first < s.fh + s.hc) && decide (s.fh < e.first + e.count)),
   (.busIsolated, s.sdu.isolated), (.steamLow, s.sdu.stlo == .low)]

/-- The event notices but for TX_DROP, which a NOTICE lost within a clear can latch anew (11, section 11.1; R163). -/
def eventNotices : List Notice :=
  [.configInvalid, .recordUnderrun, .recordOverrun, .headBenched, .driveFault, .verdictEvicted, .detectorSilent,
   .encoderFault, .lateConfig, .cycleAborted, .badFrame]

/-- The station with the notices of a word cleared, and each condition notice so removed latched again where its condition
holds (R178). -/
def State.noticesCleared (s : State) (w : Word) : State :=
  (s.conditions.filter fun c => c.2 && hasNotice w c.1 && hasNotice s.sc.latched c.1).foldl (fun u c => u.latch c.1)
    { s with sc := { s.sc with latched := s.sc.latched &&& ~~~w } }

/-- The head's QUEUED claim has less time left to the seat than its profile's Dmin (R73; log 27). -/
def State.claimTooLate (s : State) (i : LocalHead) : Bool :=
  s.owns i && decide ((s.claim i).state = .queued)
    && decide ((s.head i).phase = .claiming ∨ (s.head i).phase = .flushing)
    && decide (s.remaining i < (s.profile (s.head i).profile).Dmin)

/-- From `s` to `u` the QUEUED claims with too little time left are withdrawn, and nothing else changes (R73). -/
def State.lateClaimsWithdrawn (s u : State) : Prop :=
  (∀ i, u.claim i = (if s.claimTooLate i then .clear else s.claim i)
    ∧ u.head i = (if s.claimTooLate i then { s.head i with claimsEnded := true } else s.head i))
  ∧ u.lbi = { s.lbi with queue := s.lbi.queue.filter fun e =>
      !(s.owned.any fun i => s.claimTooLate i && e.isClaimOf (s.fh + i.val)) }
  ∧ ChangesOnly (.queue :: (ofHeads .claim ++ ofHeads .head)) s u

/-- The running transaction of a head is DETACHED; another head's stays as it is (R23). -/
def State.currentDetached (s : State) (i : LocalHead) : Option Transaction :=
  s.dlc.current.map fun x => { x with attached := x.attached && !(x.head == i) }

/-- What the event that ends a head's cycle can change besides the steam side and its drive requests. -/
def endingPieces (i : LocalHead) : List Piece :=
  [.head i, .headCounts i, .awaiting, .verdictCounts, .link] ++ reporting

/-- What the abort of every head can change (R25). -/
def abortingPieces : List Piece :=
  [.link, .awaiting, .verdictCounts] ++ (ofHeads .head ++ ofHeads .headCounts ++ ofHeads .claim ++ ofHeads .slot)
    ++ reporting

/-- The lead of a record for capper head `c`, in counts from the furthest position; 0 is read as E (R31). -/
def State.leadOf (s : State) (c : Nat) : Int :=
  let d : Int := ((c * s.pc : Nat) - ((s.ttu.x + s.ttu.lag : Nat) : Int)) % (s.setup.E : Int)
  if d = 0 then s.setup.E else d

/-- A record for capper head `c` is in time (R31, R32). -/
def State.inTime (s : State) (c : Nat) : Prop :=
  s.ttu.referenced = true ∧ s.ttu.lag < s.setup.E ∧ s.leadOf c ≤ (s.setup.Lmax * s.pc : Nat)

/-- A seq is held: by a queued record, by an open cycle of an owned head, or by an awaiting-verdict entry (R34). -/
def State.holds (s : State) (q : Nat) : Prop :=
  (∃ r ∈ s.rq, r.seq = q) ∨ (∃ i, s.owns i = true ∧ (s.head i).phase ≠ .idle ∧ ∃ r ∈ (s.head i).bound, r.seq = q)
    ∨ ∃ e ∈ s.vu.awaiting, e.seq = q

/-- The SDU's values after either reset and on leaving JOINING (R64). -/
def State.steamFresh (u : State) : Prop :=
  u.sdu.table = [] ∧ u.sdu.hold = none ∧ u.sdu.origin = .peer ∧ u.sdu.stlo = .high ∧ u.sdu.renewal = none
    ∧ u.sdu.isolated = false ∧ u.sdu.relisten = none ∧ ∀ i, u.claim i = .clear

/-- Behind the filter of the steam-low input the level is high after either reset, with no change taken (log 18). -/
def State.stloFresh (u : State) : Prop :=
  u.sdu.stloInput = .high ∧ u.sdu.stloSince = none

/-- The DLC's values after either reset and on leaving JOINING (R90). -/
def State.linkFresh (u : State) : Prop :=
  u.dlc.current = none ∧ ∀ i, (u.slot i).pending = none ∧ (u.slot i).deferred = none ∧ (u.slot i).resultWait = none

/-- The TTU's values after either reset and on leaving JOINING, at time `now` (R1). -/
def State.turretFresh (u : State) (now : Nat) : Prop :=
  u.ttu.x = 0 ∧ u.ttu.referenced = false ∧ u.ttu.dir = .forward ∧ u.ttu.lag = 0 ∧ u.ttu.pitchCount = 0
    ∧ u.ttu.tPitch = 4000000 ∧ u.ttu.coldStart = now ∧ u.ttu.coldFired = false ∧ u.ttu.coldWaits = false

/-- The values that both resets leave outside the learned and counted state (R1, R13, R44, R64, R90, R125, R169). -/
def State.blocksFresh (u : State) (now : Nat) : Prop :=
  u.turretFresh now ∧ u.rq = [] ∧ u.steamFresh ∧ u.stloFresh ∧ u.linkFresh ∧ u.vu.awaiting = [] ∧ u.vu.noVerdictRun = 0
    ∧ (u.lbi.queue = [] ∧ u.lbi.inFlight = none ∧ u.lbi.receive = .waitingIdle ∧ u.lbi.silenceStart = now)
    ∧ ∀ i, (u.head i).phase = .idle ∧ (u.head i).bound = none ∧ (u.head i).valveOpen = false
      ∧ (u.head i).purgePending = true ∧ (u.head i).driveFailures = 0 ∧ (u.learned i).lastDwell = 0
      ∧ (u.learned i).trimDue = false ∧ (u.learned i).dudDue = false

/-- What Station Control holds after either reset (R147, R170, R178; 10, section 10.2). -/
def State.controlFresh (u : State) (addr : Address) (hcPins : BitVec 2) (fh : BitVec 6) : Prop :=
  u.sc.mode = .joining ∧ u.sc.inReset = false ∧ u.addr = addr ∧ u.hc = hcPins.toNat + 1 ∧ u.fh = fh.toNat
    ∧ (u.sc.roster.map fun e => (e.addr, e.role, e.first, e.count)) = [(addr, .capper, fh.toNat, hcPins.toNat + 1)]
    ∧ u.sc.setupParts = .absent ∧ u.sc.profiles = .all .absent ∧ u.setupStatus = .incomplete
    ∧ u.sc.joinTimer = none ∧ u.sc.window = .notStarted ∧ u.sc.addressConflict = false
    ∧ u.sc.latched = 0 ∧ u.sc.mask = 0xFFFF

/-- Every condition of the join holds (R176). -/
def State.mayJoin (s : State) : Prop :=
  s.joined = false ∧ s.sc.window = .passed ∧ s.setupStatus = .valid ∧ s.profileStatus 0 = .valid
    ∧ s.sc.addressConflict = false ∧ s.headMapConflict = false

/-- What leaving JOINING can change (R176). -/
def joinedPieces : List Piece :=
  [.ttu, .records, .table, .hold, .renewal, .stlo, .isolation, .link, .awaiting, .silentRun, .silence, .mode, .joining,
    .mask] ++ (ofHeads .claim ++ ofHeads .slot ++ ofHeads .learned) ++ reporting

/-- From `t` to `u` the station leaves JOINING for STOPPED: the blocks take their values, the mask becomes the setup's,
a notice that the new mask uncovers asks for a NOTICE (R179), and the station's JOIN with JOINED is handed in (R176). -/
def State.entersStopped (t u : State) : Prop :=
  u.sc.mode = .stopped ∧ u.sc.window = t.sc.window ∧ u.sc.joinTimer = none ∧ u.sc.mask = t.setup.mask
  ∧ u.turretFresh t.now ∧ u.rq = [] ∧ u.steamFresh ∧ u.linkFresh ∧ u.vu.awaiting = [] ∧ u.vu.noVerdictRun = 0
  ∧ (∀ i, u.learned i = { t.learned i with trimDue := false, dudDue := false }) ∧ u.lbi.silenceStart = t.now
  ∧ (let v : State := {
        t with lbi := { t.lbi with silenceStart := t.now }, sc := { t.sc with mask := t.setup.mask } }
      let uncovers := t.sc.latched &&& t.sc.mask &&& ~~~t.setup.mask ≠ 0
      (if uncovers ∧ t.noticeWaits = false then v.handIn (.notice none) else v).queues
        (.join { first := t.fh, count := t.hc, cause := t.sc.cause, heard := .joined }) u)
  ∧ ChangesOnly joinedPieces t u

/-! ## What every step keeps -/

/-- The lists of the station stay within their sizes (R27, R67, R126, R162). -/
def State.withinSizes (s : State) : Prop :=
  s.rq.length ≤ Config.recordQueueSize ∧ s.sdu.table.length ≤ Config.drawTableSize
    ∧ s.vu.awaiting.length ≤ Config.awaitingSize ∧ s.lbi.queue.length ≤ Config.txQueueSize

/-- A head's counters hold at 65535 (R120, R146). -/
def HeadCounters.bounded (c : HeadCounters) : Prop :=
  c.seated ≤ Config.counterMax ∧ c.cappedOk ≤ Config.counterMax ∧ c.cappedSuspect ≤ Config.counterMax
    ∧ c.notCapped ≤ Config.counterMax ∧ c.goods ≤ Config.counterMax ∧ c.duds ≤ Config.counterMax
    ∧ c.noVerdicts ≤ Config.counterMax ∧ c.shortFlushes ≤ Config.counterMax ∧ c.noFlushes ≤ Config.counterMax
    ∧ c.driveFaults ≤ Config.counterMax

/-- The station's counters hold at 65535 (R47, R71, R146, R163, R166). -/
def Counters.bounded (c : Counters) : Prop :=
  c.badFrames ≤ Config.counterMax ∧ c.txDrops ≤ Config.counterMax ∧ c.underruns ≤ Config.counterMax
    ∧ c.overruns ≤ Config.counterMax ∧ c.duplicates ≤ Config.counterMax ∧ c.lateRecords ≤ Config.counterMax
    ∧ c.surplus ≤ Config.counterMax ∧ c.orphans ≤ Config.counterMax ∧ c.badRecords ≤ Config.counterMax
    ∧ c.evictions ≤ Config.counterMax ∧ c.lateVerdicts ≤ Config.counterMax ∧ c.mismatches ≤ Config.counterMax
    ∧ c.claimsRefused ≤ Config.counterMax

/-- Every counter stays at or below 65535 (00_scope, Counters). -/
def State.countersBounded (s : State) : Prop :=
  s.counters.bounded ∧ ∀ i, (s.headCounters.get i).bounded

/-- What the station has learned stays in its ranges: trims, dud counts, drive-failure counts, the no-verdict run and the
measured pitch (R10, R102, R129, R134, R138). -/
def State.learnedInRange (s : State) : Prop :=
  (∀ i, -Config.trimMax ≤ (s.learned i).trim ∧ (s.learned i).trim ≤ Config.trimMax
    ∧ (s.learned i).duds ≤ Config.dudMax ∧ (s.head i).driveFailures ≤ Config.failureMax)
    ∧ s.vu.noVerdictRun < Config.silentRun ∧ s.ttu.pitchCount ≤ 65535 ∧ s.ttu.tPitch ≤ Config.turretStopped

/-- The transmit queue is in the order of R162 with at most one NOTICE (R165); ages are those of hand-ins made, and the
frame in flight is not in the queue (R160). -/
def State.queueInOrder (s : State) : Prop :=
  s.lbi.queue.Pairwise (fun a b => a.ahead b = true)
    ∧ (s.lbi.queue.filter fun e => e.frame.isNotice).length ≤ 1
    ∧ (s.lbi.queue.map (·.age)).Nodup
    ∧ (∀ e ∈ s.lbi.queue, e.age < s.lbi.nextAge)
    ∧ ∀ f ∈ s.lbi.inFlight, f.entry.age < s.lbi.nextAge ∧ ∀ e ∈ s.lbi.queue, e.age ≠ f.entry.age

/-- A head outside the station's range runs no cycle, and a head with no open cycle holds nothing of one (R13; 01, 1.2). -/
def State.idleHeadsEmpty (s : State) : Prop :=
  ∀ i, (s.owns i = false → (s.head i).phase = .idle)
    ∧ ((s.head i).phase = .idle → (s.head i).bound = none ∧ (s.head i).flags = 0 ∧ (s.head i).setupDone = false
      ∧ (s.head i).applied = 0)

/-- A valve is open in FLUSHING only, so never once its head has passed its seat angle (R77). -/
def State.valvesOnlyInFlush (s : State) : Prop :=
  ∀ i, (s.head i).valveOpen = true → (s.head i).phase = .flushing

/-- Every seq the station holds: in the Record Queue, at a head, in the awaiting-verdict table (R34). -/
def State.seqsHeld (s : State) : List Nat :=
  s.rq.map (·.seq) ++ ([0, 1, 2, 3] : List LocalHead).filterMap (fun i => (s.head i).bound.map (·.seq))
    ++ s.vu.awaiting.map (·.seq)

/-- No seq is held twice, and none is 65535 (R34). -/
def State.seqsHeldOnce (s : State) : Prop :=
  s.idleHeadsEmpty ∧ s.seqsHeld.Nodup ∧ ∀ q ∈ s.seqsHeld, q ≠ Config.noSeq

/-- Every record in the queue is for an owned head, within the ranges of its fields (R27, R37). -/
def State.recordsOwned (s : State) : Prop :=
  ∀ r ∈ s.rq, (s.fh ≤ r.head ∧ r.head < s.fh + s.hc) ∧ r.mass ≤ Config.massMax ∧ r.temp ≤ Config.tempMax

/-- The flow units of this station's own entries. -/
def State.drawn (s : State) : Nat :=
  unitsOf (s.sdu.table.filter fun e => e.src == s.addr)

/-- After the join this station's own entries never sum to more than C; before it there are no entries and no claims
(R64, R77, R88). -/
def State.drawsWithinHeader (s : State) : Prop :=
  (s.joined = true → s.setupStatus = .valid ∧ s.drawn ≤ s.setup.C)
    ∧ (s.joined = false → s.sdu.table = [] ∧ ∀ i, (s.claim i).state = .none ∧ (s.head i).phase = .idle)

/-- A DRAW_END of a local head waits in the transmit queue or is in flight. -/
def State.drawEndPending (s : State) (i : LocalHead) : Prop :=
  (∃ e ∈ s.lbi.queue, e.frame = .drawEnd (s.fh + i.val))
    ∨ ∃ f ∈ s.lbi.inFlight, f.entry.frame = .drawEnd (s.fh + i.val)

/-- The head that a DRAW_CLAIM or a DRAW_END is of. -/
def TxFrame.drawHead : TxFrame → Option Nat
  | .drawClaim g _ _ | .drawEnd g => some g
  | .steamHold _ | .jarReport _ | .headState _ | .join _ | .notice _ | .counterReply _ _ _ _ => none

/-- Where a head's claim stands says where its frame is: QUEUED with at most one frame in the queue, ON_BUS with its frame
in flight; and every such frame, and every DRAW_END, is of an owned head (04, section 4.1; R70, R161, R164; log 10). -/
def State.claimFramesAgree (s : State) : Prop :=
  (∀ i, s.owns i = true →
    (s.lbi.queue.filter fun e => e.isClaimOf (s.fh + i.val)).length ≤ 1
    ∧ (∀ e ∈ s.lbi.queue, e.isClaimOf (s.fh + i.val) = true → (s.claim i).state = .queued)
    ∧ ∀ f ∈ s.lbi.inFlight, f.entry.isClaimOf (s.fh + i.val) = true → (s.claim i).state = .onBus f.won)
  ∧ ∀ e ∈ s.lbi.queue ++ (s.lbi.inFlight.map (·.entry)).toList, ∀ g ∈ e.frame.drawHead,
    s.fh ≤ g ∧ g < s.fh + s.hc

/-- A DRAW_END of a head stands before a claim of the same head that its echo is to decide, so that it is received first
(R69). -/
def State.drawEndsGoFirst (s : State) : Prop :=
  ∀ i, s.owns i = true → (s.claim i).admittedLocally = false →
    (∀ c ∈ s.lbi.queue, c.isClaimOf (s.fh + i.val) = true →
      ∀ e ∈ s.lbi.queue ++ (s.lbi.inFlight.map (·.entry)).toList, e.frame = .drawEnd (s.fh + i.val) → e.age < c.age)
    ∧ ∀ f ∈ s.lbi.inFlight, f.entry.isClaimOf (s.fh + i.val) = true → ¬ s.drawEndPending i

/-- An open valve has its live entry in the draw table, which outlasts its valve-close time; no DRAW_END of its head is on
its way, and a claim of its head that still is was admitted locally (R77, R86). -/
def State.valvesDrawn (s : State) : Prop :=
  ∀ i, (s.head i).valveOpen = true →
    s.now ≤ (s.head i).valveCloseAt
    ∧ (∃ e ∈ s.sdu.table, e.src = s.addr ∧ e.head = s.fh + i.val ∧ (s.head i).valveCloseAt < e.endAt)
    ∧ ¬ s.drawEndPending i
    ∧ ((s.claim i).state ≠ .none → (s.claim i).admittedLocally = true)

/-- The laws of R77 with what keeps them. -/
def State.steamLawful (s : State) : Prop :=
  s.withinSizes ∧ s.queueInOrder ∧ s.idleHeadsEmpty ∧ s.valvesOnlyInFlush ∧ s.drawsWithinHeader ∧ s.claimFramesAgree
    ∧ s.drawEndsGoFirst ∧ s.valvesDrawn

/-- No DRAW_END is on its way for a head that may yet claim in its cycle. A claim admitted in isolation as it is queued
(R85) would otherwise write an entry that the older DRAW_END's echo removes (R69; log 35). -/
def State.noDrawEndBehind (s : State) : Prop :=
  ∀ i, s.drawEndPending i →
    (s.head i).phase ≠ .seated ∧ (s.head i).phase ≠ .capHeld ∧ s.mayClaim i = false

/-- The flow units that the entries of the open valves carry. -/
def State.openUnits (s : State) : Nat :=
  unitsOf (s.sdu.table.filter fun e =>
    e.src == s.addr && s.owned.any fun i => (s.head i).valveOpen && e.head == s.fh + i.val)

/-- The table holds at most one entry for each station and head (R67). -/
def State.tableKeysOnce (s : State) : Prop :=
  (s.sdu.table.map fun e => (e.src, e.head)).Nodup

/-- A request is deferred behind a STOP only, and a STOP is never deferred (R97). -/
def State.deferredBehindStop (s : State) : Prop :=
  ∀ i, (s.slot i).deferred ≠ none →
    (s.slot i).pending = some .stop ∧ (s.slot i).deferred ≠ some .stop

/-- The station stands ISOLATED in RUNNING and JOG only (R84, R152). -/
def State.isolatedOnlyWhenCapping (s : State) : Prop :=
  s.sdu.isolated = true → s.capping = true

/-- After the join the setup is valid, the position lies on the turret and the lag is at most a revolution (R1, R2). -/
def State.positionOnTurret (s : State) : Prop :=
  s.joined = true → s.setupStatus = .valid ∧ s.ttu.x < s.setup.E ∧ s.ttu.lag ≤ s.setup.E

/-- The awaiting-verdict table stands in the order of capped time, and nothing in it was capped later than now (R126). -/
def State.awaitingInOrder (s : State) : Prop :=
  s.vu.awaiting.Pairwise (fun a b => a.cappedAt ≤ b.cappedAt) ∧ ∀ e ∈ s.vu.awaiting, e.cappedAt ≤ s.now

/-- A condition that no step breaks. -/
def KeptByStep (P : State → Prop) : Prop :=
  ∀ s t, P s → step s = .next t → P t

end Sys2Proof.Machine
end

