-- ==== Sys2Proof/Certificates/Slice0/Obligations.lean ====
section
/-!
DEFINITION. The statements about the station, for the provers. In each, `t` is the station at the moment of the command:
the time before it has passed (`s.elapse dt`, log 1) and, for a frame from another station, what every such frame does is
done (`s.heard dt src`). `u` is the next state.
-/
open Sys2Proof Sys2Proof.Machine

/-! ## Steps -/

/-- A step takes the front command and runs it on the state with the queue's rest. -/
def Obligations.StepRunsTheFrontCommand : Prop :=
  ∀ (s : State) (c : Instr) (rest : List Instr),
    s.pending = c :: rest → step s = exec c { s with pending := rest }

/-- Every command completes with a next state, leaves the queue alone and moves the clock by the time before it (log 1);
on an empty queue one µs passes (log 2). Both clocks are the model's choice. -/
def Obligations.EveryCommandCompletes : Prop :=
  (∀ (s : State) (c : Instr), ∃ u, exec c s = .next u ∧ u.pending = s.pending ∧ u.now = s.now + elapsedBefore c)
    ∧ ∀ s : State, s.pending = [] → ∃ u, step s = .next u ∧ u.pending = [] ∧ u.now = s.now + 1

/-- Time passes (log 3): where no timed row is due before the command's moment only the clock moves; a row due before it
is taken at its time, and where a further row is due before it then, at once or later, that one is taken next, and so on.
Of the rows due the earliest is taken, the first listed among those of one time. The timers are listed row by row, each
with the time at which it is due: during a reset there is none. The model's choices among them: that the end of a
drive transaction is such a row (log 3), that a cold stop may be due after the crossing of its moment (log 32), and that a
sample of the steam-low input is due at once where the level behind its filter is not the level taken (log 18). -/
def Obligations.TimeTakesTheRowDueFirst : Prop :=
  (∀ (s : State) (dt : Nat),
    ((∀ x ∈ s.timers, s.now + dt ≤ x.1) → s.elapse dt = { s with now := s.now + dt })
    ∧ (0 < dt → ∀ x ∈ earliest s.timers, x.1 < s.now + dt →
      let u := x.2.fire { s with now := max s.now x.1 }
      ((∀ y ∈ u.timers, s.now + dt ≤ y.1) → s.elapse dt = { u with now := s.now + dt })
      ∧ ∀ y ∈ earliest u.timers, y.1 < s.now + dt →
        let w := y.2.fire { u with now := max u.now y.1 }
        (∀ z ∈ w.timers, s.now + dt ≤ z.1) → s.elapse dt = { w with now := s.now + dt })
    ∧ (0 < dt → ∀ (rows : List (Nat × TimedEvent)) (u : State), rows.length ≤ dt + 512 →
      s.takesRows (s.now + dt) rows u → s.elapse dt = { u with now := s.now + dt }))
  ∧ (∀ s : State, (s.timers = [] ↔ earliest s.timers = none)
    ∧ ∀ x ∈ earliest s.timers, x ∈ s.timers ∧ (∀ y ∈ s.timers, x.1 ≤ y.1)
      ∧ ∀ y ∈ s.timers.takeWhile (fun y => y != x), x.1 < y.1)
  ∧ (∀ s : State, s.sc.inReset = true → s.timers = [])
  ∧ ∀ (s : State) (d : Nat), s.sc.inReset = false →
    let due (e : TimedEvent) : Prop := (d, e) ∈ s.timers
    (∀ i, due (.valveClose i)
      ↔ (s.head i).phase = .flushing ∧ (s.head i).valveOpen = true ∧ d = (s.head i).valveCloseAt)
    ∧ (∀ i, due (.claimRetry i) ↔ (s.claim i).state = .retry d)
    ∧ (∀ i, due (.resultWait i) ↔ (s.slot i).resultWait = some d)
    ∧ (∀ src g, due (.drawExpiry src g) ↔ ∃ e ∈ s.sdu.table, e.src = src ∧ e.head = g ∧ e.endAt = d)
    ∧ (due .holdExpiry ↔ s.sdu.hold = some d)
    ∧ (due .holdRenewal ↔ s.sdu.renewal = some d)
    ∧ (due .relistenEnd ↔ s.sdu.relisten = some d)
    ∧ (due .stloSample ↔ s.sdu.stloInput ≠ s.sdu.stlo ∧ d = s.now)
    ∧ (due .silence ↔ (s.sc.mode = .running ∨ s.sc.mode = .jog) ∧ s.sdu.isolated = false
      ∧ d = s.lbi.silenceStart + 250000)
    ∧ (due .pitchTimeout ↔ s.joined = true ∧ 1 ≤ s.ttu.pitchCount ∧ s.ttu.tPitch ≠ 4000000
      ∧ d = s.ttu.pitchStart + 4000000)
    ∧ (due .coldStop ↔ s.joined = true ∧ (s.ttu.coldFired = false ∧ d = s.ttu.coldStart + s.setup.Tcold * 1000000
      ∨ s.ttu.coldWaits = true ∧ d = s.now))
    ∧ (due .verdictExpiry ↔ ∃ e ∈ s.vu.awaiting.head?, d = e.cappedAt + s.setup.Lv * 1000000)
    ∧ (due .transactionEnd ↔ ∃ x ∈ s.dlc.current, x.endsAt = d)
    ∧ (due .driveGrant ↔ s.dlc.current = none ∧ (∃ i, (s.slot i).pending ≠ none) ∧ d = s.now)
    ∧ (due .joinTimer ↔ s.joined = false ∧ s.sc.joinTimer = some d)
    ∧ (due .joinWindow ↔ s.sc.window = .running d)

/-- When time has passed, no timed row is left that was due before then: the rows due have been taken one after another,
the earliest first (log 3). -/
def Obligations.NoTimedRowIsLeftBehind : Prop :=
  ∀ (s : State) (dt : Nat), s.withinSizes → 0 < dt →
    (∀ x ∈ (s.elapse dt).timers, s.now + dt ≤ x.1)
    ∧ ∃ (rows : List (Nat × TimedEvent)) (u : State), rows.length ≤ dt + 512 ∧ s.takesRows (s.now + dt) rows u
      ∧ s.elapse dt = { u with now := s.now + dt }

/-! ## Resets -/

/-- The end of a reset: every value of the blocks and of Station Control; what was learned and counted goes in a POWER_ON
reset and is kept in a reset by the pin. That a reset's end finds the steam-low input high is the model's choice
(log 18); `State.reset` is a station after POWER_ON with its straps all low, which is the model's choice too (log 6). -/
def Obligations.ResetEndSetsEveryRegister : Prop :=
  (∀ (s t : State) (dt : Nat) (addr : Address) (hcPins : BitVec 2) (fh : BitVec 6),
    s.elapse dt = t → t.sc.inReset = true → t.sc.supplyLow = false →
    ∃ u, exec (.resetEnd dt addr hcPins fh) s = .next u ∧ u.blocksFresh t.now ∧ u.controlFresh addr hcPins fh
      ∧ u.sc.cause = .pin ∧ u.counters = t.counters
      ∧ ∀ i, u.headCounters.get i = t.headCounters.get i ∧ (u.head i).bench = (t.head i).bench
          ∧ (u.learned i).trim = (t.learned i).trim ∧ (u.learned i).duds = (t.learned i).duds)
  ∧ (∀ (s t : State) (dt : Nat) (addr : Address) (hcPins : BitVec 2) (fh : BitVec 6),
    s.elapse dt = t → t.sc.inReset = true → t.sc.supplyLow = true →
    ∃ u, exec (.resetEnd dt addr hcPins fh) s = .next u ∧ u.blocksFresh t.now ∧ u.controlFresh addr hcPins fh
      ∧ u.sc.cause = .powerOn ∧ u.sc.supplyLow = false ∧ u.counters = .zero
      ∧ ∀ i, u.headCounters.get i = .zero ∧ (u.head i).bench = none ∧ (u.learned i).trim = 0 ∧ (u.learned i).duds = 0)
  ∧ State.reset.blocksFresh 0 ∧ State.reset.controlFresh 0 0 0 ∧ State.reset.sc.cause = .powerOn
  ∧ State.reset.pending = [] ∧ State.reset.counters = .zero
  ∧ ∀ i, State.reset.headCounters.get i = .zero ∧ (State.reset.head i).bench = none
      ∧ (State.reset.learned i).trim = 0 ∧ (State.reset.learned i).duds = 0

/-- A supply fall and the reset pin end every open cycle, valve and drive transaction at once, without a jar report, a
DRAW_END or an awaiting-verdict entry. What else goes when a reset begins and what stays until its end, such as the
transmit queue in a supply fall and the last dwell at the reset pin, is the model's choice (log 25). -/
def Obligations.ResetsCutCyclesWithoutReport : Prop :=
  ∀ (s t : State) (dt : Nat), s.elapse dt = t →
    (∃ u, exec (.supplyLow dt) s = .next u ∧ u.sc.inReset = true ∧ u.sc.supplyLow = true ∧ u.linkFresh
      ∧ u.lbi.inFlight = none ∧ u.lbi.queue = t.lbi.queue
      ∧ (∀ i, (u.head i).phase = .idle ∧ (u.head i).bound = none ∧ (u.head i).valveOpen = false
          ∧ (u.head i).bench = (t.head i).bench)
      ∧ ChangesOnly ([.link, .inFlight, .receive, .resetting] ++ ofHeads .head ++ ofHeads .slot) t u)
    ∧ (∃ u, exec (.resetPin dt) s = .next u ∧ u.sc.inReset = true ∧ u.sc.supplyLow = t.sc.supplyLow ∧ u.linkFresh
      ∧ u.lbi.inFlight = none ∧ u.lbi.queue = []
      ∧ (∀ i, (u.head i).phase = .idle ∧ (u.head i).bound = none ∧ (u.head i).valveOpen = false
          ∧ (u.head i).bench = (t.head i).bench
          ∧ (u.learned i).trim = (if (t.learned i).trimDue then 0 else (t.learned i).trim)
          ∧ (u.learned i).duds = (if (t.learned i).dudDue then 0 else (t.learned i).duds)
          ∧ (u.learned i).trimDue = false ∧ (u.learned i).dudDue = false
          ∧ (u.learned i).lastDwell = (t.learned i).lastDwell)
      ∧ ChangesOnly ([.link, .queue, .inFlight, .receive, .resetting] ++ ofHeads .head ++ ofHeads .slot
          ++ ofHeads .learned) t u)

/-- Where a command cannot act it only lets its time pass: any but a reset command during a reset (log 7), a RESET_END
with no reset running (log 4), and the turret's commands in JOINING (R1). -/
def Obligations.NothingActsOutOfPlace : Prop :=
  (∀ (s : State) (c : Instr), (s.elapse (elapsedBefore c)).sc.inReset = true → actsInReset c = false →
    exec c s = .next (s.elapse (elapsedBefore c)))
  ∧ (∀ (s : State) (dt : Nat) (addr : Address) (hcPins : BitVec 2) (fh : BitVec 6),
    (s.elapse dt).sc.inReset = false → exec (.resetEnd dt addr hcPins fh) s = .next (s.elapse dt))
  ∧ ∀ (s : State) (dt : Nat) (jp cp : BitVec 4), (s.elapse dt).joined = false →
    exec (.forwardCount dt jp cp) s = .next (s.elapse dt) ∧ exec (.reverseCount dt) s = .next (s.elapse dt)
      ∧ exec (.illegalQuadratureStep dt) s = .next (s.elapse dt) ∧ exec (.zeroMark dt jp cp) s = .next (s.elapse dt)

/-! ## Turret -/

/-- A forward count. Without a reference, and where it takes up reverse lag, nothing is raised; at a new crossing the
position moves, a pitch is measured at a boundary, and the angle event of every owned head whose phase falls at the
position arrived at is taken once; then the QUEUED claims with too little time left are withdrawn. `forwardMove` is the
same move with the direction indicator left as it is. That the heads are taken in local head order with the claims last,
and what the recheck tests, is the model's choice (logs 14 and 27); so is that a cold stop due at the crossing's moment
comes after it (logs 3 and 32). -/
def Obligations.ForwardCountMovesMeasuresAndRaisesEvents : Prop :=
  let next (v : State) : Nat := (v.ttu.x + 1) % v.setup.E
  let coldDue (v : State) : Bool := v.ttu.coldWaits
    || !v.ttu.coldFired && decide (v.ttu.coldStart + v.setup.Tcold * 1000000 ≤ v.now)
  let lagTaken (v : State) : State := { v with ttu := { v.ttu with x := next v, lag := v.ttu.lag - 1 } }
  let arrived (v : State) : State := { v with ttu := if next v % v.pc = 0 then
      { v.ttu with
        x := next v, tPitch := if v.ttu.pitchCount = 0 then v.ttu.tPitch else min 4000000 (v.now - v.ttu.pitchStart),
        pitchStart := v.now, pitchCount := min 65535 (v.ttu.pitchCount + 1), coldStart := v.now, coldFired := false,
        coldWaits := coldDue v }
    else { v.ttu with x := next v } }
  let raised (v : State) (jp cp : BitVec 4) : State :=
    v.owned.foldl (fun w i => ((arrived v).eventHere i).elim w (w.takeAngle i jp cp)) (arrived v)
  (∀ (s t : State) (dt : Nat) (jp cp : BitVec 4),
    s.elapse dt = t → t.sc.inReset = false → t.joined = true →
    let f : State := { t with ttu := { t.ttu with dir := .forward } }
    (t.ttu.referenced = false → exec (.forwardCount dt jp cp) s = .next f)
    ∧ (t.ttu.referenced = true → exec (.forwardCount dt jp cp) s = .next (f.forwardMove jp cp))
    ∧ (t.ttu.referenced = true → 0 < t.ttu.lag → exec (.forwardCount dt jp cp) s = .next (lagTaken f))
    ∧ (t.ttu.referenced = true → t.ttu.lag = 0 →
      (∃ u, exec (.forwardCount dt jp cp) s = .next u ∧ u.ttu = (arrived f).ttu
        ∧ (raised f jp cp).lateClaimsWithdrawn u ∧ u = (raised f jp cp).recheckClaims)
      ∧ (t.setupStatus = .valid →
          ∀ i, ∀ e ∈ [AngleEvent.infeed, .capPick, .flushStart, .seat, .torqueStart, .release],
            (arrived f).eventHere i = some e ↔ ((t.fh + i.val) * t.pc + e.offset t.setup) % t.setup.E = next f)))
  ∧ (∀ (v : State) (jp cp : BitVec 4), v.joined = true →
    (0 < v.ttu.lag → v.forwardMove jp cp = lagTaken v)
    ∧ (v.ttu.lag = 0 → v.forwardMove jp cp = (raised v jp cp).recheckClaims))
  ∧ ∀ s : State, s.lateClaimsWithdrawn s.recheckClaims

/-- An infeed pass of an IDLE head that begins no cycle: no jar, a benched head, or STOPPED. -/
def Obligations.InfeedPassWithoutACycle : Prop :=
  ∀ (s : State) (i : LocalHead) (jp cp : BitVec 4), (s.head i).phase = .idle →
    let g := s.fh + i.val
    let due := s.rq.filter fun r => r.head == g
    let kept := s.rq.filter fun r => r.head != g
    let u := s.takeAngle i jp cp .infeed
    (jp.getLsbD i.val = false →
      u = { s with rq := kept, counters := { s.counters with
        orphans := min 65535 (s.counters.orphans + due.length) } })
    ∧ (jp.getLsbD i.val = true → (s.head i).bench ≠ none →
      u.rq = kept
      ∧ u.counters = { s.counters with
          surplus := min 65535 (s.counters.surplus + due.length), txDrops := u.counters.txDrops }
      ∧ u.headCounters.get i = { s.headCounters.get i with notCapped := min 65535 ((s.headCounters.get i).notCapped + 1) }
      ∧ s.queues (.jarReport {
          seq := 65535, head := g, outcome := .benched, profile := 0, flags := s.withJog 0, torque := 0, angle := 0 }) u
      ∧ ChangesOnly ([.records, .recordCounts, .headCounts i] ++ reporting) s u)
    ∧ (jp.getLsbD i.val = true → (s.head i).bench = none → s.sc.mode = .stopped →
      u.rq = kept
      ∧ u.counters = { s.counters with
          surplus := min 65535 (s.counters.surplus + (due.length - 1)), txDrops := u.counters.txDrops }
      ∧ u.headCounters.get i = { s.headCounters.get i with notCapped := min 65535 ((s.headCounters.get i).notCapped + 1) }
      ∧ s.queues (.jarReport {
          seq := (due.head?.map (·.seq)).getD 65535, head := g, outcome := .stopped,
          profile := (due.head?.map (·.product)).getD 0,
          flags := if due.head?.any (·.range) then setFlag 0 .recordRange else 0, torque := 0, angle := 0 }) u
      ∧ ChangesOnly ([.records, .recordCounts, .headCounts i] ++ reporting) s u)

/-- The infeed pass of an active IDLE head with a jar in RUNNING or JOG begins a capping cycle: the oldest record due is
bound, or the underrun fallback is taken, the dwell is computed and a SETUP is requested. -/
def Obligations.InfeedPassBeginsACycle : Prop :=
  ∀ (s : State) (i : LocalHead) (jp cp : BitVec 4),
    (s.head i).phase = .idle → jp.getLsbD i.val = true → (s.head i).bench = none →
    (s.sc.mode = .running ∨ s.sc.mode = .jog) →
    let g := s.fh + i.val
    let due := s.rq.filter fun r => r.head == g
    let k := (due.head?.map (·.product)).getD 0
    let p := s.profile k
    let d := infeedCall p.forDwell
      { mass := (due.head?.map (·.mass)).getD (p.rho * p.Vb / 1000), temp := (due.head?.map (·.temp)).getD p.Tref,
        recordMissing := due.isEmpty, trim := (s.learned i).trim, purgePending := (s.head i).purgePending,
        tPitch := s.ttu.tPitch, window := s.setup.aS - s.setup.aFs, pc := s.pc }
    let first : Word := if due.head?.any (·.range) then setFlag 0 .recordRange else 0
    let latched := if due.isEmpty then s.latch .recordUnderrun else s
    let u := s.takeAngle i jp cp .infeed
    u.head i = { s.head i with
        phase := .seated, bound := due.head?, profile := k, dwell := d.dwell, window := d.window,
        flags := (if due.isEmpty then setFlag (s.withJog first) .recordMissing else s.withJog first) ||| d.flags,
        setupDone := false, claimsEnded := false, applied := 0 }
    ∧ u.slot i = (s.slot i).request (.setup p.Tt p.speed (2 * p.thetaMin))
    ∧ u.rq = (s.rq.filter fun r => r.head != g)
    ∧ u.counters = { s.counters with
        surplus := min 65535 (s.counters.surplus + (due.length - 1)),
        underruns := if due.isEmpty then min 65535 (s.counters.underruns + 1) else s.counters.underruns,
        txDrops := u.counters.txDrops }
    ∧ latched.busSideOf u
    ∧ (due = [] → hasNotice u.sc.latched .recordUnderrun = true)
    ∧ ChangesOnly ([.records, .recordCounts, .head i, .slot i] ++ (if due.isEmpty then reporting else [])) s u

/-- Cap pick, torque start and release: the drive side of a cycle. In any other phase each has no effect. That a SETUP
running on the link at torque start stays ATTACHED is the model's choice (log 12). -/
def Obligations.CapPickTorqueStartAndRelease : Prop :=
  ∀ (s : State) (i : LocalHead) (jp cp : BitVec 4),
    let h := s.head i
    ((s.head i).phase = .seated → cp.getLsbD i.val = true →
      s.takeAngle i jp cp .capPick = s.updHead i fun _ => { h with phase := .capHeld, flags := s.withJog h.flags })
    ∧ ((s.head i).phase = .seated → cp.getLsbD i.val = false →
      let u := s.takeAngle i jp cp .capPick
      (u.head i).phase = .idle ∧ u.slot i = (s.slot i).withdraw .setup
      ∧ u.dlc.current = s.currentDetached i
      ∧ s.queues (.jarReport {
          seq := (h.bound.map (·.seq)).getD 65535, head := s.fh + i.val, outcome := .noCap,
          profile := h.profile, flags := setFlag (s.withJog h.flags) .noCap, torque := 0, angle := 0 }) u
      ∧ ChangesOnly ([.head i, .headCounts i, .slot i, .link] ++ reporting) s u)
    ∧ ((s.head i).phase = .pressed →
      s.takeAngle i jp cp .torqueStart =
        (s.updHead i fun _ => { h with
          phase := .torquing,
          flags := if h.setupDone then s.withJog h.flags else setFlag (s.withJog h.flags) .driveLate }).updSlot i
          fun d => (if h.setupDone then d else d.withdraw .setup).request .start)
    ∧ ((s.head i).phase = .torquing →
      s.takeAngle i jp cp .release =
        (s.updHead i fun _ => { h with
          phase := .releasing,
          flags := if (s.slot i).pending = some .start ∨ (s.slot i).deferred = some .start
            then setFlag (s.withJog h.flags) .driveFault else s.withJog h.flags }).updSlot i
          fun d => d.request .result)
    ∧ ((s.head i).phase ≠ .seated → s.takeAngle i jp cp .capPick = s)
    ∧ ((s.head i).phase ≠ .pressed → s.takeAngle i jp cp .torqueStart = s)
    ∧ ((s.head i).phase ≠ .torquing → s.takeAngle i jp cp .release = s)

/-- Flush start and seat: the steam side of a cycle. In any other phase each has no effect. A seat withdraws a waiting
claim; in FLUSHING that is a claim admitted in isolation, whose entry and valve stand until the valve closes. How the
applied dwell of a cut flush is rounded is the model's choice (log 17). -/
def Obligations.FlushStartAndSeat : Prop :=
  ∀ (s : State) (i : LocalHead) (jp cp : BitVec 4),
    let h := s.head i
    let g := s.fh + i.val
    let ended := h.claimsEnded || (s.claim i).waits
    let freed := s.withoutClaimFrame i
    ((s.head i).phase = .capHeld → (s.head i).bench ≠ none →
      s.takeAngle i jp cp .flushStart
        = s.updHead i fun _ => { h with phase := .claiming, flags := s.withJog h.flags, claimsEnded := true })
    ∧ ((s.head i).phase = .capHeld → (s.head i).bench = none → (s.claim i).state = .none →
      s.takeAngle i jp cp .flushStart
        = (s.updHead i fun _ => { h with phase := .claiming, flags := s.withJog h.flags }).formClaim i)
    ∧ ((s.head i).phase = .capHeld → (s.head i).bench = none → (s.claim i).state ≠ .none →
      s.takeAngle i jp cp .flushStart
        = s.updHead i fun _ => { h with phase := .claiming, flags := s.withJog h.flags })
    ∧ ((s.head i).phase ≠ .capHeld → s.takeAngle i jp cp .flushStart = s)
    ∧ ((s.head i).phase = .claiming →
      let u := s.takeAngle i jp cp .seat
      u.head i = { h with
        phase := .pressed, applied := 0, claimsEnded := ended, flags := setFlag (s.withJog h.flags) .noFlush }
      ∧ u.claim i = (s.claim i).afterWithdrawal ∧ u.lbi = freed.lbi
      ∧ ChangesOnly [.head i, .claim i, .queue] s u)
    ∧ ((s.head i).phase = .flushing → (s.head i).valveOpen = true →
      let u := s.takeAngle i jp cp .seat
      u.head i = { h with
        phase := .pressed, valveOpen := false, applied := (min s.now h.valveCloseAt - h.valveOpenedAt) / 1000,
        claimsEnded := ended, flags := setFlag (s.withJog h.flags) .shortFlush }
      ∧ u.claim i = (s.claim i).afterWithdrawal ∧ freed.queues (.drawEnd g) u
      ∧ ChangesOnly ([.head i, .claim i] ++ reporting) s u)
    ∧ ((s.head i).phase = .flushing → (s.head i).valveOpen = false →
      let u := s.takeAngle i jp cp .seat
      u.head i = { h with phase := .pressed, claimsEnded := ended, flags := s.withJog h.flags }
      ∧ u.claim i = (s.claim i).afterWithdrawal ∧ u.lbi = freed.lbi
      ∧ ChangesOnly [.head i, .claim i, .queue] s u)
    ∧ ((s.head i).phase ≠ .claiming → (s.head i).phase ≠ .flushing → s.takeAngle i jp cp .seat = s)

/-- The event that ends an open cycle: the jar counters, the report, the hand-off, and the head IDLE, with a transaction of
the cycle that still runs DETACHED. -/
def Obligations.FinishedCycleIsCountedReportedAndHandedOff : Prop :=
  ∀ (s : State) (i : LocalHead) (o : JarOutcome) (torque angle : Nat),
    let h := s.head i
    let c := s.headCounters.get i
    let q := (h.bound.map (·.seq)).getD 65535
    let r : JarReport := {
      seq := q, head := s.fh + i.val, outcome := o, profile := h.profile, flags := h.flags, torque := torque,
      angle := angle }
    let e : AwaitingEntry := {
      seq := q, head := s.fh + i.val, profile := h.profile,
      applied := if hasFlag h.flags .noFlush then 0 else h.applied, flags := h.flags, cappedAt := s.now }
    let u := s.finish i o torque angle
    ((u.head i).phase = .idle ∧ (u.head i).bound = none ∧ (u.head i).flags = 0 ∧ (u.head i).setupDone = false
      ∧ (u.head i).applied = 0 ∧ (u.head i).valveOpen = h.valveOpen ∧ (u.head i).purgePending = h.purgePending
      ∧ (u.head i).bench = h.bench ∧ (u.head i).driveFailures = h.driveFailures)
    ∧ u.headCounters.get i = { c with
        seated := min 65535 (c.seated + 1),
        cappedOk := if o = .cappedOk then min 65535 (c.cappedOk + 1) else c.cappedOk,
        cappedSuspect := if o = .cappedSuspect then min 65535 (c.cappedSuspect + 1) else c.cappedSuspect,
        notCapped := if o ≠ .cappedOk ∧ o ≠ .cappedSuspect then min 65535 (c.notCapped + 1) else c.notCapped,
        shortFlushes := if hasFlag h.flags .shortFlush then min 65535 (c.shortFlushes + 1) else c.shortFlushes,
        noFlushes := if hasFlag h.flags .noFlush then min 65535 (c.noFlushes + 1) else c.noFlushes,
        driveFaults := if hasFlag h.flags .driveFault then min 65535 (c.driveFaults + 1) else c.driveFaults }
    ∧ u.dlc.current = s.currentDetached i
    ∧ ((o ≠ .cappedOk ∧ o ≠ .cappedSuspect ∨ q = 65535) →
      u.vu = s.vu ∧ s.queues (.jarReport r) u ∧ u.counters = { s.counters with txDrops := u.counters.txDrops })
    ∧ ((o = .cappedOk ∨ o = .cappedSuspect) → q ≠ 65535 → s.vu.awaiting.length < 128 →
      u.vu = { s.vu with awaiting := s.vu.awaiting ++ [e] } ∧ s.queues (.jarReport r) u
      ∧ u.counters = { s.counters with txDrops := u.counters.txDrops })
    ∧ ((o = .cappedOk ∨ o = .cappedSuspect) → q ≠ 65535 → 128 ≤ s.vu.awaiting.length →
      let w := (s.handIn (.jarReport r)).latch .verdictEvicted
      u.vu = { s.vu with awaiting := s.vu.awaiting.drop 1 ++ [e] }
      ∧ w.busSideOf u ∧ hasNotice u.sc.latched .verdictEvicted = true
      ∧ u.counters = { s.counters with
          evictions := min 65535 (s.counters.evictions + 1), txDrops := u.counters.txDrops })
    ∧ ChangesOnly (endingPieces i) s u

/-- A close-out at the infeed pass and an abort end an open cycle as their phase asks, and the pass then goes on at the
IDLE head, with a next jar or without. What `finish` does is FinishedCycleIsCountedReportedAndHandedOff, and what the pass
does then InfeedPassWithoutACycle and InfeedPassBeginsACycle. -/
def Obligations.CloseOutAndAbortEndACycle : Prop :=
  ∀ (s : State) (i : LocalHead) (jp cp : BitVec 4),
    let h := s.head i
    let g := s.fh + i.val
    let report (o : JarOutcome) (f : Word) : TxFrame := .jarReport {
      seq := (h.bound.map (·.seq)).getD 65535, head := g, outcome := o, profile := h.profile, flags := f, torque := 0,
      angle := 0 }
    ((s.head i).phase = .releasing →
      let closing := (s.updSlot i fun d => d.withdraw .result).updHead i fun _ => {
        h with flags := s.withJog (setFlag h.flags .driveFault) }
      let ended := (closing.finish i .cappedSuspect 0 0).updHead i fun e => {
        e with driveFailures := min 3 (h.driveFailures + 1) }
      let u := s.closeOut i
      (h.driveFailures ≠ 2 → u = ended)
      ∧ (h.driveFailures = 2 → h.bench ≠ none → u = ended.latch .driveFault)
      ∧ (h.driveFailures = 2 → h.bench = none → (ended.latch .driveFault).becomesBenched i .drive u)
      ∧ (u.head i).phase = .idle ∧ u.slot i = (s.slot i).withdraw .result ∧ u.dlc.current = s.currentDetached i
      ∧ (h.driveFailures ≠ 2 → s.vu.awaiting.length < 128 →
          s.queues (report .cappedSuspect (s.withJog (setFlag h.flags .driveFault))) u)
      ∧ (h.driveFailures = 2 → (u.head i).bench ≠ none ∧ hasNotice u.sc.latched .driveFault = true)
      ∧ s.takeAngle i jp cp .infeed = u.takeAngle i jp cp .infeed)
    ∧ ((s.head i).phase = .idle → State.abortHead i s = s)
    ∧ ((s.head i).phase ≠ .idle →
      let u := State.abortHead i s
      let f := s.withJog (setFlag h.flags .aborted)
      let freed := s.withoutClaimFrame i
      let open_ := h.phase = .flushing ∧ h.valveOpen = true
      let pressed := h.phase = .pressed ∨ h.phase = .torquing ∨ h.phase = .releasing
      (∃ w : State, u = w.finish i (if pressed then .cappedSuspect else .aborted) 0 0
        ∧ w.head i = { h with
            flags := f, claimsEnded := h.claimsEnded || (s.claim i).waits, valveOpen := h.valveOpen && !decide open_,
            applied := if open_ then (min s.now h.valveCloseAt - h.valveOpenedAt) / 1000 else h.applied }
        ∧ (if open_ then freed.handIn (.drawEnd g) else freed).busSideOf w
        ∧ ChangesOnly ([.head i, .claim i, .slot i, .link] ++ reporting) s w)
      ∧ (u.head i).phase = .idle ∧ (u.head i).purgePending = h.purgePending ∧ (u.head i).bench = h.bench
      ∧ (u.head i).driveFailures = h.driveFailures
      ∧ u.claim i = (s.claim i).afterWithdrawal
      ∧ u.slot i = (if h.phase = .torquing then (s.slot i).request .stop
          else if h.phase = .releasing then (s.slot i).withdraw .result else (s.slot i).withdraw .setup)
      ∧ u.dlc.current = s.currentDetached i
      ∧ (h.phase = .seated ∨ h.phase = .capHeld ∨ h.phase = .claiming ∨ h.phase = .flushing ∧ h.valveOpen = false →
          freed.queues (report .aborted f) u ∧ u.vu = s.vu)
      ∧ (open_ → (u.head i).valveOpen = false
          ∧ (freed.handIn (.drawEnd g)).queues (report .aborted f) u ∧ u.vu = s.vu)
      ∧ (pressed → s.vu.awaiting.length < 128 → freed.queues (report .cappedSuspect f) u)
      ∧ ChangesOnly ([.claim i, .slot i] ++ endingPieces i) s u)

/-- A reverse count and an illegal quadrature step: the position and the measurement, and every open cycle aborted, head
by head in local head order (what `abortHead` does is CloseOutAndAbortEndACycle). That ENCODER_FAULT is latched before the
aborts and CYCLE_ABORTED after them is the model's order (log 14). -/
def Obligations.ReverseCountAndIllegalStepAbort : Prop :=
  ∀ (s t : State) (dt : Nat), s.elapse dt = t → t.sc.inReset = false → t.joined = true →
    let back : State := { t with ttu := { t.ttu with
      x := (t.ttu.x + t.setup.E - 1) % t.setup.E, dir := .reverse, lag := min t.setup.E (t.ttu.lag + 1),
      pitchCount := 0 } }
    let aborted (v : State) : State := t.owned.foldl (fun w i => w.abortHead i) v
    (t.ttu.referenced = true →
      ∃ u, exec (.reverseCount dt) s = .next u
        ∧ u = (if t.ttu.dir = .forward then (aborted back).latch .cycleAborted else aborted back)
        ∧ u.ttu = back.ttu ∧ (∀ i, t.owns i = true → (u.head i).phase = .idle)
        ∧ (t.ttu.dir = .forward → hasNotice u.sc.latched .cycleAborted = true)
        ∧ (t.ttu.dir = .reverse → (∀ i, t.owns i = true → (t.head i).phase = .idle) → u = back)
        ∧ ChangesOnly (.ttu :: abortingPieces) t u)
    ∧ (t.ttu.referenced = false → t.ttu.dir = .forward →
      exec (.reverseCount dt) s = .next (({ t with ttu := { t.ttu with dir := .reverse } } : State).latch .cycleAborted))
    ∧ (t.ttu.referenced = false → t.ttu.dir = .reverse → exec (.reverseCount dt) s = .next t)
    ∧ (t.ttu.referenced = true →
      ∃ u, exec (.illegalQuadratureStep dt) s = .next u
        ∧ u = { aborted (t.latch .encoderFault) with
            ttu := { t.ttu with referenced := false, lag := 0, pitchCount := 0 } }
        ∧ (∀ i, t.owns i = true → (u.head i).phase = .idle)
        ∧ hasNotice u.sc.latched .encoderFault = true ∧ ChangesOnly (.ttu :: abortingPieces) t u)
    ∧ (t.ttu.referenced = false → exec (.illegalQuadratureStep dt) s = .next (t.latch .encoderFault))

/-- The zero mark: the reference, the silent corrections and the fault, which aborts every open cycle (what `forwardMove`
does is ForwardCountMovesMeasuresAndRaisesEvents, and what `abortHead` does CloseOutAndAbortEndACycle). That a forward
correction leaves the direction indicator as it is is the model's choice (log 15), and so is that ENCODER_FAULT is latched
before the aborts (log 14). -/
def Obligations.ZeroMarkSetsChecksOrFaults : Prop :=
  ∀ (s t : State) (dt : Nat) (jp cp : BitVec 4),
    s.elapse dt = t → t.sc.inReset = false → t.joined = true → t.positionOnTurret →
    (t.ttu.referenced = false →
      exec (.zeroMark dt jp cp) s
        = .next { t with ttu := { t.ttu with x := 0, lag := 0, pitchCount := 0, referenced := true } })
    ∧ (t.ttu.referenced = true → t.ttu.x = 0 → exec (.zeroMark dt jp cp) s = .next t)
    ∧ (t.ttu.referenced = true → (t.ttu.x = 1 ∨ t.ttu.x = 2) →
      exec (.zeroMark dt jp cp) s
        = .next { t with ttu := { t.ttu with x := 0, lag := min t.setup.E (t.ttu.lag + t.ttu.x) } })
    ∧ (t.ttu.referenced = true → t.ttu.x + 1 = t.setup.E →
      exec (.zeroMark dt jp cp) s = .next (t.forwardMove jp cp))
    ∧ (t.ttu.referenced = true → t.ttu.x + 2 = t.setup.E →
      exec (.zeroMark dt jp cp) s = .next ((t.forwardMove jp cp).forwardMove jp cp))
    ∧ (t.ttu.referenced = true → 2 < t.ttu.x → t.ttu.x + 2 < t.setup.E →
      ∃ u, exec (.zeroMark dt jp cp) s = .next u
        ∧ u = { t.owned.foldl (fun w i => w.abortHead i) (t.latch .encoderFault) with
            ttu := { t.ttu with x := 0, lag := 0, pitchCount := 0 } }
        ∧ (∀ i, t.owns i = true → (u.head i).phase = .idle)
        ∧ hasNotice u.sc.latched .encoderFault = true ∧ ChangesOnly (.ttu :: abortingPieces) t u)

/-- The pitch timeout and the cold stop, when due and when not. A pitch timeout changes t_pitch, so QUEUED claims with too
little time left are withdrawn; with t_pitch at "stopped" none has, where Dmin is at most 65535. That a cold stop which
comes after the crossing of its moment sets cold-stop fired is the model's choice (log 32). -/
def Obligations.PitchTimeoutAndColdStop : Prop :=
  ∀ (s t : State) (dt : Nat), s.elapse dt = t → t.sc.inReset = false →
    let stopped : State := { t with ttu := { t.ttu with tPitch := 4000000 } }
    let coldDue := t.joined = true ∧ (t.ttu.coldWaits = true
      ∨ t.ttu.coldFired = false ∧ t.ttu.coldStart + t.setup.Tcold * 1000000 ≤ t.now)
    (t.joined = true → 1 ≤ t.ttu.pitchCount → t.ttu.pitchStart + 4000000 ≤ t.now →
      (∃ u, exec (.pitchTimeout dt) s = .next u ∧ stopped.lateClaimsWithdrawn u)
      ∧ (∀ i, stopped.claimTooLate i = true → 65535 < (t.profile (t.head i).profile).Dmin)
      ∧ ((∀ i, (t.profile (t.head i).profile).Dmin ≤ 65535) → exec (.pitchTimeout dt) s = .next stopped))
    ∧ (t.joined = false ∨ t.ttu.pitchCount = 0 ∨ t.now < t.ttu.pitchStart + 4000000 →
      exec (.pitchTimeout dt) s = .next t)
    ∧ (coldDue →
      ∃ u, exec (.coldStop dt) s = .next u ∧ u.ttu = { t.ttu with coldFired := true, coldWaits := false }
        ∧ (∀ i, u.head i = { t.head i with purgePending := (t.head i).purgePending || t.owns i })
        ∧ ChangesOnly (.ttu :: ofHeads .head) t u)
    ∧ (¬ coldDue → exec (.coldStop dt) s = .next t)

/-! ## Records -/

/-- A JAR_RECORD that is not queued: ignored, bad, not owned, late or a duplicate, tested in this order. -/
def Obligations.JarRecordThatIsNotQueued : Prop :=
  ∀ (s t : State) (dt : Nat) (src : Address) (p : BitVec 64),
    s.heard dt src = t → (s.elapse dt).reads = true →
    let c := (jarPocket p + t.setup.O) % t.setup.P
    (t.joined = false ∨ t.roleOf src ≠ some .filler → exec (.jarRecord dt src p) s = .next t)
    ∧ (t.joined = true → t.roleOf src = some .filler → (jarSeq p = 65535 ∨ t.setup.P ≤ jarPocket p) →
      exec (.jarRecord dt src p) s
        = .next { t with counters := { t.counters with badRecords := min 65535 (t.counters.badRecords + 1) } })
    ∧ (t.joined = true → t.roleOf src = some .filler → jarSeq p ≠ 65535 → jarPocket p < t.setup.P →
      (c < t.fh ∨ t.fh + t.hc ≤ c) → exec (.jarRecord dt src p) s = .next t)
    ∧ (t.joined = true → t.setupStatus = .valid → t.roleOf src = some .filler → jarSeq p ≠ 65535 →
      jarPocket p < t.setup.P → t.fh ≤ c → c < t.fh + t.hc →
      (¬ t.inTime c →
        exec (.jarRecord dt src p) s
          = .next { t with counters := { t.counters with lateRecords := min 65535 (t.counters.lateRecords + 1) } })
      ∧ (t.inTime c → t.holds (jarSeq p) →
        exec (.jarRecord dt src p) s
          = .next { t with counters := { t.counters with duplicates := min 65535 (t.counters.duplicates + 1) } }))

/-- A JAR_RECORD that passes the checks is corrected and appended; a full queue first drops its oldest record. -/
def Obligations.JarRecordThatIsQueued : Prop :=
  ∀ (s t : State) (dt : Nat) (src : Address) (p : BitVec 64),
    s.heard dt src = t → (s.elapse dt).reads = true → t.joined = true → t.setupStatus = .valid →
    t.roleOf src = some .filler → jarSeq p ≠ 65535 → jarPocket p < t.setup.P →
    let c := (jarPocket p + t.setup.O) % t.setup.P
    t.fh ≤ c → c < t.fh + t.hc → t.inTime c → ¬ t.holds (jarSeq p) →
    let known : Bool := decide (jarProduct p < 8) && decide (t.profileStatus (Fin.ofNat 8 (jarProduct p)) = .valid)
    let r : JarRecord := {
      seq := jarSeq p, pocket := jarPocket p, head := c, product := if known then Fin.ofNat 8 (jarProduct p) else 0,
      mass := min (jarMass p) 20000, temp := min (jarTemp p) 1200,
      range := !known || decide (20000 < jarMass p) || decide (1200 < jarTemp p) }
    (t.rq.length < 32 → exec (.jarRecord dt src p) s = .next { t with rq := t.rq ++ [r] })
    ∧ (32 ≤ t.rq.length →
      ∃ u, exec (.jarRecord dt src p) s = .next u ∧ u.rq = t.rq.drop 1 ++ [r]
        ∧ u.counters = { t.counters with
            overruns := min 65535 (t.counters.overruns + 1), txDrops := u.counters.txDrops }
        ∧ (t.latch .recordOverrun).busSideOf u
        ∧ hasNotice u.sc.latched .recordOverrun = true
        ∧ ChangesOnly ([.records, .recordCounts] ++ reporting) t u)

/-! ## Dwell -/

/-- The infeed call and the claim call of the Dwell Calculator, stage by stage. -/
def Obligations.DwellArithmetic : Prop :=
  (∀ (p : DwellProfile) (i : DwellInput), p.Dmin ≤ p.Dmax →
    let v := i.mass * 1000 / p.rho
    let h := if i.recordMissing then 0 else min 600 (p.Vb - v)
    let dh := h * p.Kh / 64
    let dtemp := if i.temp < p.Tref then (p.Tref - i.temp) * p.Kt / 32 else 0
    let raw : Int := p.B + dh + dtemp + i.trim + (if i.purgePending then (p.Pext : Int) else 0)
    let d : Int := max p.Dmin (min p.Dmax raw)
    let w := if 4000000 ≤ i.tPitch then 65535 else min 65535 (i.window * i.tPitch / (i.pc * 1000))
    let r := infeedCall p i
    r.window = w ∧ (r.dwell : Int) = min d w
      ∧ (hasFlag r.flags .overfill = true ↔ i.recordMissing = false ∧ p.Vb ≤ v)
      ∧ (hasFlag r.flags .headspaceHigh = true ↔ i.recordMissing = false ∧ 600 < p.Vb - v)
      ∧ (hasFlag r.flags .purgeAdded = true ↔ i.purgePending = true)
      ∧ (hasFlag r.flags .dwellClamped = true ↔ d ≠ raw)
      ∧ (hasFlag r.flags .shortFlush = true ↔ (w : Int) < d)
      ∧ ∀ f ∈ [JarFlag.recordMissing, .recordRange, .noFlush, .noCap, .driveLate, .driveFault, .underTorque, .overTorque,
          .crossThread, .jog, .aborted], hasFlag r.flags f = false)
  ∧ (∀ (s : State) (i : LocalHead), s.setupStatus = .valid →
      let k : Int := (((s.fh + i.val) * s.pc + s.setup.aS : Nat) - ((s.ttu.x + s.ttu.lag : Nat) : Int)) % (s.setup.E : Int)
      s.remaining i = if 4000000 ≤ s.ttu.tPitch then 65535 else min 65535 (k.toNat * s.ttu.tPitch / (s.pc * 1000)))
  ∧ ∀ d Dmin R : Nat, claimCall d Dmin R = if Dmin ≤ min d R then some (min d R) else none

/-! ## Steam -/

/-- Another capper station's DRAW_CLAIM is tested against the table: it writes its entry, or nothing. -/
def Obligations.PeerClaimIsAdmittedByTheTable : Prop :=
  ∀ (s t : State) (dt : Nat) (src : Address) (p : BitVec 32),
    s.heard dt src = t → s.hears dt src .drawClaim (bytesOf 4 p.toNat) →
    let g := claimHead p
    let f := claimUnits p
    let isIt (e : DrawEntry) : Bool := e.src == src && e.head == g
    let sum := ((t.sdu.table.filter fun e => !isIt e).map (·.units)).sum
    let taken := t.joined = true ∧ src ≠ t.addr ∧ t.roleOf src = some .capper ∧ g < t.setup.P ∧ 1 ≤ f ∧ f ≤ 4
    let fits := t.sdu.hold = none ∧ sum + f ≤ t.setup.C ∧ (t.sdu.table.any isIt = true ∨ t.sdu.table.length < 64)
    (taken → fits →
      exec (.drawClaim dt src p) s = .next { t with sdu := { t.sdu with
        table := (t.sdu.table.filter fun e => !isIt e)
          ++ [{ src := src, head := g, units := f, endAt := t.now + claimDwell p * 1000 + 20000 }] } })
    ∧ (¬ (taken ∧ fits) → exec (.drawClaim dt src p) s = .next t)

/-- The echo of the station's own DRAW_CLAIM: its test outside isolation and the relisten, the stricter ones within them,
and what an admission or a refusal does at the head. That a head whose claims have ended in the cycle counts as one that
is no longer claiming is the model's choice (log 11), and so is that an admission that opens no valve leaves the JOG flag
(log 19). What is an echo is log 8. -/
def Obligations.OwnClaimEchoOpensTheValveOrRetries : Prop :=
  ∀ (s t : State) (dt : Nat) (p : BitVec 32) (i : LocalHead),
    (s.elapse dt).completed = t → s.echoes dt s.addr .drawClaim (bytesOf 4 p.toNat) → t.joined = true →
    claimHead p = t.fh + i.val → t.owns i = true →
    let g := claimHead p
    let f := claimUnits p
    let h := t.head i
    let isIt (e : DrawEntry) : Bool := e.src == t.addr && e.head == g
    let sum := ((t.sdu.table.filter fun e => !isIt e).map (·.units)).sum
    let own := ((t.sdu.table.filter fun e => e.src == t.addr && e.head != g).map (·.units)).sum
    let room := t.sdu.hold = none ∧ (t.sdu.table.any isIt = true ∨ t.sdu.table.length < 64)
    let line := sum + f ≤ t.setup.C
    let share := own + f ≤ max 1 (t.setup.C / t.ncap)
    let admits := room ∧ (if t.sdu.isolated then share else if t.sdu.relisten ≠ none then line ∧ share else line)
    let claiming := h.phase = .claiming ∧ h.bench = none ∧ h.claimsEnded = false
    ∃ u, exec (.drawClaim dt s.addr p) s = .next u ∧ u.lbi.inFlight = none
      ∧ ((t.claim i).admittedLocally = true → u = t.updClaim i fun _ => .clear)
      ∧ ((t.claim i).admittedLocally = false → admits →
        u.claim i = .clear
        ∧ u.sdu.table = (t.sdu.table.filter fun e => !isIt e)
            ++ [{ src := t.addr, head := g, units := f, endAt := t.now + claimDwell p * 1000 + 20000 }]
        ∧ (claiming → u.head i = { h with
            phase := .flushing, valveOpen := true, valveOpenedAt := t.now,
            valveCloseAt := t.now + claimDwell p * 1000, purgePending := h.purgePending && !(t.claim i).extension,
            flags := t.withJog h.flags } ∧ ChangesOnly [.table, .claim i, .head i] t u)
        ∧ (¬ claiming → t.queues (.drawEnd g) u ∧ ChangesOnly ([.table, .claim i] ++ reporting) t u))
      ∧ ((t.claim i).admittedLocally = false → ¬ admits →
        u.counters.claimsRefused = min 65535 (t.counters.claimsRefused + 1)
        ∧ (claiming → u.claim i = { t.claim i with state := .retry (t.now + 5000) })
        ∧ (¬ claiming → u.claim i = .clear) ∧ ChangesOnly [.claimsRefused, .claim i] t u)

/-- A DRAW_END, and an entry's end time, remove the entry of a station and head. What is an echo is log 8. -/
def Obligations.DrawEndAndEndTimeRemoveEntries : Prop :=
  (∀ (s t : State) (dt : Nat) (src : Address) (p : BitVec 8),
    s.heard dt src = t → s.hears dt src .drawEnd (bytesOf 1 p.toNat) →
    let taken := t.joined = true ∧ src ≠ t.addr ∧ t.roleOf src = some .capper ∧ p.toNat < t.setup.P
    (taken → exec (.drawEnd dt src p) s = .next { t with sdu := { t.sdu with
      table := t.sdu.table.filter fun e => !(e.src == src && e.head == p.toNat) } })
    ∧ (¬ taken → exec (.drawEnd dt src p) s = .next t))
  ∧ (∀ (s t : State) (dt : Nat) (p : BitVec 8),
    (s.elapse dt).completed = t → s.echoes dt s.addr .drawEnd (bytesOf 1 p.toNat) →
    (t.joined = true → exec (.drawEnd dt s.addr p) s = .next { t with sdu := { t.sdu with
      table := t.sdu.table.filter fun e => !(e.src == t.addr && e.head == p.toNat) } })
    ∧ (t.joined = false → exec (.drawEnd dt s.addr p) s = .next t))
  ∧ ∀ (s t : State) (dt : Nat) (src : Address) (head : Nat), s.elapse dt = t → t.sc.inReset = false →
    exec (.drawEntryExpiry dt src head) s = .next { t with sdu := { t.sdu with
      table := t.sdu.table.filter fun e => !(e.src == src && e.head == head && decide (e.endAt ≤ t.now)) } }

/-- A STEAM_HOLD sets or stops the hold timer; at its end, and at a renewal, a station whose header is still low sends a
further hold. That the hold of an expiry leaves a renewal that is due is the model's choice (log 31); what is an echo is
log 8. -/
def Obligations.HoldsAreSetStoppedAndRenewed : Prop :=
  (∀ (s t : State) (dt : Nat) (src : Address) (p : BitVec 16),
    s.heard dt src = t → s.hears dt src .steamHold (bytesOf 2 p.toNat) →
    (t.joined = false → exec (.steamHold dt src p) s = .next t)
    ∧ (t.joined = true → exec (.steamHold dt src p) s = .next { t with sdu := { t.sdu with
        hold := if p = 0 then none else some (t.now + p.toNat * 1000), origin := .peer } }))
  ∧ (∀ (s t : State) (dt : Nat) (p : BitVec 16),
    (s.elapse dt).completed = t → s.echoes dt s.addr .steamHold (bytesOf 2 p.toNat) →
    (t.joined = false → exec (.steamHold dt s.addr p) s = .next t)
    ∧ (t.joined = true → exec (.steamHold dt s.addr p) s = .next { t with sdu := { t.sdu with
        hold := if p = 0 then none else some (t.now + p.toNat * 1000),
        origin := if p = 0 then .peer else .own } }))
  ∧ ∀ (s t : State) (dt : Nat), s.elapse dt = t → t.sc.inReset = false →
    let low := t.sdu.stlo = .low ∧ (t.sc.mode = .running ∨ t.sc.mode = .jog) ∧ 0 < t.setup.Hq
    let ended : State := { t with sdu := { t.sdu with hold := none } }
    let lapsed : State := { t with sdu := { t.sdu with renewal := none } }
    ((∃ w ∈ t.sdu.hold, w ≤ t.now) →
      exec (.holdExpiry dt) s
        = .next (if low ∧ t.sdu.origin = .own then ended.handIn (.steamHold t.setup.Hq) else ended))
    ∧ ((∀ w ∈ t.sdu.hold, t.now < w) → exec (.holdExpiry dt) s = .next t)
    ∧ ((∃ w ∈ t.sdu.renewal, w ≤ t.now) →
      exec (.holdRenewal dt) s = .next (if low then lapsed.handIn (.steamHold t.setup.Hq) else lapsed))
    ∧ ((∀ w ∈ t.sdu.renewal, t.now < w) → exec (.holdRenewal dt) s = .next t)

/-- The steam-low input. A change of level gets through the filter where the input has stood at it for 2 ms; a sample then
finds a fall, which latches STEAM_LOW and, in RUNNING or JOG with Hq above 0, queues a hold, or a rise, which is only
taken. Where the input and the level taken differ, as they may after the join, a sample is due at once: that is the
model's choice (log 18), as is that the command says how long the input has stood, and that the hold leaves a renewal
that is due (log 31). -/
def Obligations.SteamLowFallsAndRises : Prop :=
  (∀ (s t : State) (dt held : Nat), s.elapse dt = t → t.sc.inReset = false →
    ∀ c ∈ [(Instr.stloFall ⟨dt, held⟩, StloLevel.low), (.stloRise ⟨dt, held⟩, .high)],
      let settled := t.sdu.stloInput ≠ c.2 ∧ 2000 ≤ held ∧ ∀ w ∈ t.sdu.stloSince, w + held ≤ t.now
      let v : State := if settled then { t with sdu := { t.sdu with stloInput := c.2, stloSince := some t.now } } else t
      let fallen := ({ v with sdu := { v.sdu with stlo := .low } } : State).latch .steamLow
      (v.sdu.stloInput = .low → t.sdu.stlo = .high →
        exec c.1 s = .next (if (t.sc.mode = .running ∨ t.sc.mode = .jog) ∧ 0 < t.setup.Hq
          then fallen.handIn (.steamHold t.setup.Hq) else fallen)
        ∧ hasNotice fallen.sc.latched .steamLow = true ∧ ChangesOnly (.stlo :: reporting) v fallen)
      ∧ (v.sdu.stloInput = .high → t.sdu.stlo = .low →
        exec c.1 s = .next { v with sdu := { v.sdu with stlo := .high } })
      ∧ (v.sdu.stloInput = t.sdu.stlo → exec c.1 s = .next v))
  ∧ ∀ t : State, t.sc.inReset = false →
    let fallen := ({ t with sdu := { t.sdu with stlo := .low } } : State).latch .steamLow
    ((t.now, TimedEvent.stloSample) ∈ t.timers ↔ t.sdu.stloInput ≠ t.sdu.stlo)
    ∧ (t.sdu.stloInput = .low → t.sdu.stlo = .high →
      TimedEvent.stloSample.fire t = if (t.sc.mode = .running ∨ t.sc.mode = .jog) ∧ 0 < t.setup.Hq
        then fallen.handIn (.steamHold t.setup.Hq) else fallen)
    ∧ (t.sdu.stloInput = .high → t.sdu.stlo = .low →
      TimedEvent.stloSample.fire t = { t with sdu := { t.sdu with stlo := .high } })
    ∧ (t.sdu.stloInput = t.sdu.stlo → TimedEvent.stloSample.fire t = t)

/-- The silence timer holds at 65535 ms; at 250 ms in RUNNING or JOG it sets ISOLATED and latches BUS_ISOLATED. The
relisten ends at its time. -/
def Obligations.SilenceIsolatesAndRelistenEnds : Prop :=
  ∀ (s t : State) (dt : Nat), s.elapse dt = t → t.sc.inReset = false →
    let silence := min 65535 ((t.now - t.lbi.silenceStart) / 1000)
    let due := (t.sc.mode = .running ∨ t.sc.mode = .jog) ∧ t.sdu.isolated = false ∧ 250 ≤ silence
    t.silenceTimer = silence
    ∧ (due → ∃ u, exec (.silenceThreshold dt) s = .next u
      ∧ u = ({ t with sdu := { t.sdu with isolated := true } } : State).latch .busIsolated
      ∧ u.sdu = { t.sdu with isolated := true } ∧ hasNotice u.sc.latched .busIsolated = true ∧ ChangesOnly (.isolation :: reporting) t u)
    ∧ (¬ due → exec (.silenceThreshold dt) s = .next t)
    ∧ ((∃ w ∈ t.sdu.relisten, w ≤ t.now) →
      exec (.relistenEnd dt) s = .next { t with sdu := { t.sdu with relisten := none } })
    ∧ ((∀ w ∈ t.sdu.relisten, t.now < w) → exec (.relistenEnd dt) s = .next t)

/-- A claim formed for a head: none where the time left is too short, queued where the line decides, and decided at once
during isolation. The frame arrives as any frame handed in (HandedInFrameTakesItsPlace): at a queue full of class 0 it is
dropped, and the claim goes to RETRY, or to NONE where the head no longer claims; that a head in CLAIMING whose claims have
ended counts as one that no longer claims is the model's choice (log 11). -/
def Obligations.FormedClaimIsQueuedOrDecidedInIsolation : Prop :=
  ∀ (s : State) (i : LocalHead),
    let h := s.head i
    let p := s.profile h.profile
    let c := min h.dwell (s.remaining i)
    let g := s.fh + i.val
    let isIt (e : DrawEntry) : Bool := e.src == s.addr && e.head == g
    let own := ((s.sdu.table.filter fun e => e.src == s.addr && e.head != g).map (·.units)).sum
    let admits := s.sdu.hold = none ∧ own + p.f ≤ max 1 (s.setup.C / s.ncap)
      ∧ (s.sdu.table.any isIt = true ∨ s.sdu.table.length < 64)
    let flags := if c < h.dwell then setFlag h.flags .shortFlush else h.flags
    let particulars (state : ClaimState) (admitted : Bool) : Claim := {
      state := state, units := p.f, dwell := c, extension := hasFlag h.flags .purgeAdded, admittedLocally := admitted }
    let claiming := h.phase = .claiming ∧ h.bench = none ∧ h.claimsEnded = false
    let opened : State :=
      (({ s with sdu := { s.sdu with table := (s.sdu.table.filter fun e => !isIt e)
        ++ [{ src := s.addr, head := g, units := p.f, endAt := s.now + c * 1000 + 20000 }] } } : State).updClaim i
          fun _ => particulars .queued true).updHead i fun _ => { h with
            phase := .flushing, valveOpen := true, valveOpenedAt := s.now, valveCloseAt := s.now + c * 1000,
            purgePending := h.purgePending && !hasFlag h.flags .purgeAdded, flags := s.withJog flags }
    let u := s.formClaim i
    s.owns i = true →
    let full := s.lbi.queue.length = 16 ∧ ∀ e ∈ s.lbi.queue, e.frame.cls = 0
    (c < p.Dmin → u = (s.updClaim i fun _ => .clear).updHead i fun _ => { h with claimsEnded := true })
    ∧ (p.Dmin ≤ c → s.sdu.isolated = false →
      u = ((s.updHead i fun _ => { h with flags := flags }).updClaim i fun _ => particulars .queued false).handIn
        (.drawClaim g p.f c))
    ∧ (p.Dmin ≤ c → s.sdu.isolated = false → full →
      u.claim i = (if claiming then particulars (.retry (s.now + 5000)) false else .clear)
      ∧ u.head i = { h with flags := flags } ∧ u.lbi.queue = s.lbi.queue
      ∧ min 65535 (s.counters.txDrops + 1) ≤ u.counters.txDrops ∧ hasNotice u.sc.latched .txDrop = true
      ∧ ChangesOnly ([.claim i, .head i] ++ reporting) s u)
    ∧ (p.Dmin ≤ c → s.sdu.isolated = true → admits → claiming → u = opened.handIn (.drawClaim g p.f c))
    ∧ (p.Dmin ≤ c → s.sdu.isolated = true → admits → claiming → full →
      u.claim i = .clear ∧ (u.head i).phase = .flushing ∧ (u.head i).valveOpen = true
      ∧ u.sdu.table = (s.sdu.table.filter fun e => !isIt e)
          ++ [{ src := s.addr, head := g, units := p.f, endAt := s.now + c * 1000 + 20000 }]
      ∧ u.lbi.queue = s.lbi.queue ∧ hasNotice u.sc.latched .txDrop = true
      ∧ ChangesOnly ([.table, .claim i, .head i] ++ reporting) s u)
    ∧ (p.Dmin ≤ c → s.sdu.isolated = false → s.lbi.queue.length < 16 →
      u.claim i = particulars .queued false ∧ u.head i = { h with flags := flags }
      ∧ s.queues (.drawClaim g p.f c) u ∧ ChangesOnly ([.claim i, .head i] ++ reporting) s u)
    ∧ (p.Dmin ≤ c → s.sdu.isolated = true → admits → claiming → s.lbi.queue.length < 16 →
      u.claim i = particulars .queued true
      ∧ u.head i = { h with
          phase := .flushing, valveOpen := true, valveOpenedAt := s.now, valveCloseAt := s.now + c * 1000,
          purgePending := h.purgePending && !hasFlag h.flags .purgeAdded, flags := s.withJog flags }
      ∧ u.sdu.table = (s.sdu.table.filter fun e => !isIt e)
          ++ [{ src := s.addr, head := g, units := p.f, endAt := s.now + c * 1000 + 20000 }]
      ∧ s.queues (.drawClaim g p.f c) u ∧ ChangesOnly ([.table, .claim i, .head i] ++ reporting) s u)
    ∧ (p.Dmin ≤ c → s.sdu.isolated = true → ¬ admits → claiming →
      u.claim i = particulars (.retry (s.now + 5000)) false ∧ u.head i = { h with flags := flags }
      ∧ u.counters.claimsRefused = min 65535 (s.counters.claimsRefused + 1)
      ∧ ChangesOnly [.claim i, .head i, .claimsRefused] s u)

/-- At its valve-close time an open valve closes: the applied dwell is recorded and a DRAW_END handed in, and the head
stays in FLUSHING. At the end of a retry wait a new claim is formed for a head still in CLAIMING, active, its claims not
ended; that the last is asked is the model's choice (log 11). -/
def Obligations.ValveCloseAndRetryWaitEndAtTheirTimes : Prop :=
  (∀ (s t : State) (dt : Nat) (i : LocalHead), s.elapse dt = t → t.sc.inReset = false →
    let h := t.head i
    let due := h.phase = .flushing ∧ h.valveOpen = true ∧ h.valveCloseAt ≤ t.now
    (due → ∃ u, exec (.valveCloseTime dt i) s = .next u
      ∧ u.head i = { h with
          valveOpen := false, applied := (h.valveCloseAt - h.valveOpenedAt) / 1000, flags := t.withJog h.flags }
      ∧ t.queues (.drawEnd (t.fh + i.val)) u ∧ ChangesOnly (.head i :: reporting) t u)
    ∧ (¬ due → exec (.valveCloseTime dt i) s = .next t))
  ∧ ∀ (s t : State) (dt : Nat) (i : LocalHead), s.elapse dt = t → t.sc.inReset = false →
    let claiming := (t.head i).phase = .claiming ∧ (t.head i).bench = none ∧ (t.head i).claimsEnded = false
    (∀ w, (t.claim i).state = .retry w → w ≤ t.now → claiming →
      exec (.claimRetry dt i) s = .next ((t.updClaim i fun _ => .clear).formClaim i))
    ∧ (∀ w, (t.claim i).state = .retry w → w ≤ t.now → ¬ claiming →
      exec (.claimRetry dt i) s = .next (t.updClaim i fun _ => .clear))
    ∧ (∀ w, (t.claim i).state = .retry w → t.now < w → exec (.claimRetry dt i) s = .next t)
    ∧ ((t.claim i).state = .none ∨ (t.claim i).state = .queued ∨ (∃ w, (t.claim i).state = .onBus w) →
      exec (.claimRetry dt i) s = .next t)

/-! ## Drive link -/

/-- An idle link is granted to the pending request of the highest kind, the lowest local head within it. That a request
granted after its cycle has ended is DETACHED is the model's choice (log 13). -/
def Obligations.GrantGoesToTheHighestKind : Prop :=
  ∀ (s t : State) (dt : Nat), s.elapse dt = t → t.sc.inReset = false →
    (t.dlc.current = none → ∀ i, ∀ r ∈ (t.slot i).pending,
      (∀ j, ∀ q ∈ (t.slot j).pending, r.kind.rank < q.kind.rank ∨ r.kind.rank = q.kind.rank ∧ i ≤ j) →
      exec (.driveGrant dt) s = .next
        (({ t with dlc := { t.dlc with current := some {
              head := i, request := r, attached := r.kind != .stop && (t.head i).phase != .idle,
              endsAt := t.now + 200 } } } : State).updSlot i fun d =>
          if r = .stop then { d with pending := d.deferred, deferred := none } else { d with pending := none }))
    ∧ ((t.dlc.current ≠ none ∨ ∀ i, (t.slot i).pending = none) → exec (.driveGrant dt) s = .next t)

/-- The six bytes of a command: kind code, 32-bit group, checksum. They go out byte 0 first, each most significant bit
first, and a reply is read in the same order; then the fields of a reply and its judgement: checksum, echoed kind,
status. -/
def Obligations.ReplyIsJudgedByChecksumKindAndStatus : Prop :=
  (∀ r : DriveRequest, ∃ check : Byte,
    (∀ torque speed limit, r = .setup torque speed limit → torque < 1024 → speed < 1024 → limit < 4096 →
      r.command = bytesOf 5 ((1 : BitVec 8) ++ BitVec.ofNat 10 torque ++ BitVec.ofNat 10 speed
        ++ BitVec.ofNat 12 limit).toNat ++ [check])
    ∧ (r = .start → r.command = [2, 0, 0, 0, 0, check]) ∧ (r = .result → r.command = [3, 0, 0, 0, 0, check])
    ∧ (r = .stop → r.command = [4, 0, 0, 0, 0, check])
    ∧ (r.command.map (·.toNat)).sum % 256 = 0)
  ∧ (∀ k : DriveKind, k.code = [DriveKind.setup, .start, .result, .stop].idxOf k + 1)
  ∧ (∀ r : BitVec 48,
    replyByte r 0 = 16 * replyKind r + 2 * replyStatus r + (replyDone r).toNat
    ∧ replyKind r < 16 ∧ replyStatus r < 8
    ∧ replyTorque r = 256 * replyByte r 1 + replyByte r 2 ∧ replyAngle r = 256 * replyByte r 3 + replyByte r 4)
  ∧ (∀ s : State, (s.dlc.current = none → s.dataOut = [])
    ∧ ∀ x ∈ s.dlc.current, x.request.command.length = 6 ∧ s.dataOut.length = 48
      ∧ ∀ n, n < 48 → s.dataOut[n]? = (x.request.command[n / 8]?).map fun b => b.getLsbD (7 - n % 8))
  ∧ (∀ bits : List Bool, bits.length = 48 →
    (∀ n, n < 48 → bits[n]? = some ((replyOfBits bits).getLsbD (47 - n)))
    ∧ ∀ k, k < 6 → replyByte (replyOfBits bits) k
        = ((List.range 8).map fun j => if bits[8 * k + j]? = some true then 2 ^ (7 - j) else 0).sum)
  ∧ ∀ (k : DriveKind) (r : BitVec 48),
    let sum := replyByte r 0 + replyByte r 1 + replyByte r 2 + replyByte r 3 + replyByte r 4 + replyByte r 5
    (sum % 256 ≠ 0 → judgeReply k r = .failure)
    ∧ (sum % 256 = 0 → replyKind r ≠ k.code → judgeReply k r = .failure)
    ∧ (sum % 256 = 0 → replyKind r = k.code →
      (replyStatus r = 1 → k ≠ .result → judgeReply k r = .success)
      ∧ (replyStatus r = 1 → k = .result → replyDone r = true → judgeReply k r = .success)
      ∧ (replyStatus r = 1 → k = .result → replyDone r = false → judgeReply k r = .busy)
      ∧ (replyStatus r = 2 → k = .result → judgeReply k r = .busy)
      ∧ (replyStatus r = 2 → k ≠ .result → judgeReply k r = .failure)
      ∧ (replyStatus r ≠ 1 → replyStatus r ≠ 2 → judgeReply k r = .failure))
    ∧ judgeReply k 0xFFFFFFFFFFFF = .failure

/-- A completion is taken in two steps. It moves the head's drive-failure count, the third failure benching the head; then
a SETUP's and a START's also act on an open cycle they are attached to, and a failed RESULT ends it, benched or not. Where
no command brings a reply, the end of the transaction reads six bytes of all ones (log 3). -/
def Obligations.CompletionMovesTheFailureCount : Prop :=
  ∀ (s t : State) (dt : Nat) (reply : BitVec 48), s.elapse dt = t → t.sc.inReset = false →
    ((∀ x ∈ t.dlc.current, t.now < x.endsAt) → exec (.driveTransactionComplete dt reply) s = .next t)
    ∧ exec (.driveTransactionComplete dt 0xFFFFFFFFFFFF) s = .next (TimedEvent.transactionEnd.fire t)
    ∧ ∀ x ∈ t.dlc.current, x.endsAt ≤ t.now →
      let i := x.head
      let h := t.head i
      let k := x.request.kind
      let c := judgeReply k reply
      let idle : State := { t with dlc := { t.dlc with current := none } }
      let applied := x.attached = true ∧ h.phase ≠ .idle ∧ (k = .setup ∨ k = .start)
      let unapplied := x.attached = false ∨ h.phase = .idle ∨ k = .stop ∨ k = .result ∧ h.phase ≠ .releasing
      let counted := idle.updHead i fun _ => { h with
        driveFailures :=
          if c = .success then 0 else if c = .failure then min 3 (h.driveFailures + 1) else h.driveFailures }
      let third := c = .failure ∧ h.driveFailures = 2
      ∃ v : State,
        (¬ third → v = counted)
        ∧ (third → h.bench ≠ none → v = counted.latch .driveFault)
        ∧ (third → h.bench = none → (counted.latch .driveFault).becomesBenched i .drive v)
        ∧ (third → (v.head i).driveFailures = 3 ∧ hasNotice v.sc.latched .driveFault = true
            ∧ (v.head i).bench = some (h.bench.getD .drive))
        ∧ (unapplied → exec (.driveTransactionComplete dt reply) s = .next v)
        ∧ (applied → exec (.driveTransactionComplete dt reply) s
            = .next (v.updHead i fun w => { w with
                setupDone := h.setupDone || decide (k = .setup ∧ c = .success),
                flags := if k = .start ∧ c = .failure then setFlag (t.withJog h.flags) .driveFault
                  else t.withJog h.flags }))
        ∧ (x.attached = true → k = .result → h.phase = .releasing → c = .failure →
            exec (.driveTransactionComplete dt reply) s
              = .next ((v.updHead i fun w => { w with flags := setFlag (t.withJog h.flags) .driveFault }).finish i
                  .cappedSuspect 0 0))

/-- A RESULT of class success or failure ends the cycle: torque and turn angle are tested, the outcome is decided, and
the jar is reported and handed off, at a full awaiting-verdict table in place of the oldest entry. -/
def Obligations.ResultEndsTheCycleOnTorqueAndAngle : Prop :=
  ∀ (s t : State) (dt : Nat) (reply : BitVec 48), s.elapse dt = t → t.sc.inReset = false →
    ∀ x ∈ t.dlc.current, x.endsAt ≤ t.now → x.attached = true → x.request = .result →
      (t.head x.head).phase = .releasing →
      let i := x.head
      let h := t.head i
      let p := t.profile h.profile
      let q := (h.bound.map (·.seq)).getD 65535
      let torque := replyTorque reply
      let angle := replyAngle reply
      let f0 := t.withJog h.flags
      let f1 := if torque < p.Tmin then setFlag f0 .underTorque else f0
      let f2 := if p.Tmax < torque then setFlag f1 .overTorque else f1
      let f3 := if p.Tmin ≤ torque ∧ angle < p.thetaMin then setFlag f2 .crossThread else f2
      let faulted := hasFlag h.flags .driveFault
      let f := if faulted then f0 else f3
      let suspect : Bool := hasFlag f .noFlush || hasFlag f .driveFault || hasFlag f .underTorque
        || hasFlag f .overTorque || hasFlag f .crossThread || hasFlag f .aborted
      let report (o : JarOutcome) (w : Word) (a b : Nat) : TxFrame := .jarReport {
        seq := q, head := t.fh + i.val, outcome := o, profile := h.profile, flags := w, torque := a, angle := b }
      let entry (w : Word) : AwaitingEntry := {
        seq := q, head := t.fh + i.val, profile := h.profile, applied := if hasFlag w .noFlush then 0 else h.applied,
        flags := w, cappedAt := t.now }
      let handed (r : TxFrame) (w : Word) (u : State) : Prop :=
        (q = 65535 → u.vu.awaiting = t.vu.awaiting ∧ t.queues r u)
        ∧ (q ≠ 65535 → t.vu.awaiting.length < 128 → u.vu.awaiting = t.vu.awaiting ++ [entry w] ∧ t.queues r u)
        ∧ (q ≠ 65535 → 128 ≤ t.vu.awaiting.length →
          u.vu.awaiting = t.vu.awaiting.drop 1 ++ [entry w] ∧ ((t.handIn r).latch .verdictEvicted).busSideOf u
          ∧ u.counters.evictions = min 65535 (t.counters.evictions + 1))
      (judgeReply .result reply = .success →
        ∃ u, exec (.driveTransactionComplete dt reply) s = .next u
          ∧ (u.head i).phase = .idle ∧ (u.head i).driveFailures = 0 ∧ u.dlc.current = none
          ∧ handed (report (if suspect then .cappedSuspect else .cappedOk) f (if faulted then 0 else min 255 (torque / 5))
              (if faulted then 0 else min 4095 angle)) f u
          ∧ ChangesOnly (.link :: endingPieces i) t u)
      ∧ (judgeReply .result reply = .failure → h.driveFailures ≠ 2 →
        ∃ u, exec (.driveTransactionComplete dt reply) s = .next u
          ∧ (u.head i).phase = .idle ∧ (u.head i).driveFailures = min 3 (h.driveFailures + 1) ∧ u.dlc.current = none
          ∧ handed (report .cappedSuspect (setFlag f0 .driveFault) 0 0) (setFlag f0 .driveFault) u
          ∧ ChangesOnly (.link :: endingPieces i) t u)

/-- A busy RESULT is asked again: its completion starts the 2 ms wait, and the end of the wait places a RESULT. That the
busy completion sets JOG in JOG is the model's reading (log 19). -/
def Obligations.BusyResultIsAskedAgain : Prop :=
  ∀ (s t : State) (dt : Nat), s.elapse dt = t → t.sc.inReset = false →
    (∀ reply : BitVec 48, ∀ x ∈ t.dlc.current, x.endsAt ≤ t.now → x.attached = true → x.request = .result →
      (t.head x.head).phase = .releasing → judgeReply .result reply = .busy →
      exec (.driveTransactionComplete dt reply) s
        = .next ((({ t with dlc := { t.dlc with current := none } } : State).updHead x.head fun h =>
            { h with flags := t.withJog h.flags }).updSlot x.head fun d =>
              { d with resultWait := some (t.now + 2000) }))
    ∧ ∀ i, ((∃ w ∈ (t.slot i).resultWait, w ≤ t.now) →
        exec (.resultWaitExpiry dt i) s
          = .next (t.updSlot i fun d => ({ d with resultWait := none } : DriveSlot).request .result))
      ∧ ((∀ w ∈ (t.slot i).resultWait, t.now < w) → exec (.resultWaitExpiry dt i) s = .next t)

/-- What a request does to a head's pending and deferred requests: a STOP is not replaced, and a request is deferred only
behind a STOP, in every step. -/
def Obligations.RequestsReplaceAllButAStop : Prop :=
  (∀ (d : DriveSlot) (r : DriveRequest),
    (d.pending ≠ some .stop → d.request r = { d with pending := some r })
    ∧ (d.pending = some .stop → r = .stop → d.request r = d)
    ∧ (d.pending = some .stop → r ≠ .stop → d.request r = { d with deferred := some r }))
  ∧ KeptByStep State.deferredBehindStop

/-! ## Verdicts -/

/-- A VERDICT that is not matched: ignored, late, or a mismatch. -/
def Obligations.VerdictThatIsNotMatched : Prop :=
  ∀ (s t : State) (dt : Nat) (src : Address) (p : BitVec 56),
    s.heard dt src = t → (s.elapse dt).reads = true →
    let taken := t.joined = true ∧ t.roleOf src = some .detector ∧ verdictCapper p = t.addr.toNat
    (¬ taken → exec (.verdict dt src p) s = .next t)
    ∧ (taken → (∀ e ∈ t.vu.awaiting, e.seq ≠ verdictSeq p) →
      exec (.verdict dt src p) s
        = .next { t with counters := { t.counters with lateVerdicts := min 65535 (t.counters.lateVerdicts + 1) } })
    ∧ (taken → ∀ e ∈ t.vu.awaiting.find? fun e => e.seq == verdictSeq p, verdictHead p ≠ e.head →
      exec (.verdict dt src p) s
        = .next { t with counters := { t.counters with mismatches := min 65535 (t.counters.mismatches + 1) } })

/-- A matched VERDICT: its entry goes, it is counted, and where nothing explains the seal it moves the trim and the dud
count, and may bench the head. -/
def Obligations.MatchedVerdictCountsAndTeaches : Prop :=
  ∀ (s t : State) (dt : Nat) (src : Address) (p : BitVec 56) (i : LocalHead),
    s.heard dt src = t → (s.elapse dt).reads = true → t.joined = true → t.roleOf src = some .detector →
    verdictCapper p = t.addr.toNat → t.owns i = true →
    ∀ e ∈ t.vu.awaiting.find? fun e => e.seq == verdictSeq p, verdictHead p = e.head → e.head = t.fh + i.val →
      let v := t.learned i
      let c := t.headCounters.get i
      let k := t.profile e.profile
      let finding := verdictFinding p
      let explained : Bool := [JarFlag.recordMissing, .recordRange, .dwellClamped, .purgeAdded, .shortFlush, .noFlush,
        .driveFault, .underTorque, .overTorque, .crossThread, .jog, .aborted].any (hasFlag e.flags)
      let teaches : Bool := !explained && (t.head i).bench.isNone && t.sc.mode != .jog
      let step : Int := max (-(k.stepMax : Int)) (min k.stepMax
        (Int.tdiv (((k.target : Int) - (verdictDepth p : Int)) * k.G) 256))
      let trim : Int := if teaches ∧ finding ≠ .unreadable then max (-200) (min 200 (v.trim + step)) else v.trim
      let duds : Nat := if teaches ∧ finding = .good then 0
        else if teaches ∧ finding = .dud then min 15 (v.duds + 1) else v.duds
      let benches := teaches ∧ finding = .dud ∧ 0 < k.Nb ∧ k.Nb ≤ duds
      let taught : State :=
        (({ t with vu := { t.vu with
            awaiting := t.vu.awaiting.filter fun a => a.seq != verdictSeq p, noVerdictRun := 0 } } : State).updLearned i
          fun _ => { v with trim := trim, duds := duds, lastDwell := e.applied }).updCounters i fun _ => { c with
            goods := if finding = .good then min 65535 (c.goods + 1) else c.goods,
            duds := if finding = .dud then min 65535 (c.duds + 1) else c.duds }
      ∃ u, exec (.verdict dt src p) s = .next u
        ∧ (¬ benches → u = taught)
        ∧ (benches → taught.becomesBenched i .duds u)

/-- The oldest awaiting-verdict entry expires Lv seconds after its capped time; the sixteenth expiry in a row latches
DETECTOR_SILENT. -/
def Obligations.VerdictExpiryCountsNoVerdict : Prop :=
  ∀ (s t : State) (dt : Nat), s.elapse dt = t → t.sc.inReset = false →
    (t.vu.awaiting = [] → exec (.verdictExpiry dt) s = .next t)
    ∧ ∀ e ∈ t.vu.awaiting.head?,
      (t.now < e.cappedAt + t.setup.Lv * 1000000 → exec (.verdictExpiry dt) s = .next t)
      ∧ (e.cappedAt + t.setup.Lv * 1000000 ≤ t.now → ∀ i, t.owns i = true → e.head = t.fh + i.val →
        let expired (run : Nat) : State :=
          ({ t with vu := { t.vu with awaiting := t.vu.awaiting.tail, noVerdictRun := run } } : State).updCounters i
            fun c => { c with noVerdicts := min 65535 (c.noVerdicts + 1) }
        ∃ u, exec (.verdictExpiry dt) s = .next u
          ∧ u = (if t.vu.noVerdictRun + 1 < 16 then expired (t.vu.noVerdictRun + 1)
            else (expired 0).latch .detectorSilent)
          ∧ u.vu.awaiting = t.vu.awaiting.tail
          ∧ u.headCounters.get i = { t.headCounters.get i with
              noVerdicts := min 65535 ((t.headCounters.get i).noVerdicts + 1) }
          ∧ (t.vu.noVerdictRun + 1 < 16 → u.vu.noVerdictRun = t.vu.noVerdictRun + 1
              ∧ ChangesOnly [.awaiting, .silentRun, .headCounts i] t u)
          ∧ (16 ≤ t.vu.noVerdictRun + 1 → u.vu.noVerdictRun = 0 ∧ hasNotice u.sc.latched .detectorSilent = true
              ∧ ChangesOnly ([.awaiting, .silentRun, .headCounts i] ++ reporting) t u))

/-- A HEAD_RETURN is answered in RUNNING, returns its head in STOPPED, and holds its resets over in JOG; head 255 means
every owned head, in local head order. -/
def Obligations.HeadReturnActsByMode : Prop :=
  ∀ (s t : State) (dt : Nat) (src : Address) (p : BitVec 16),
    s.heard dt src = t → (s.elapse dt).reads = true →
    let taken := t.joined = true ∧ t.roleOf src = some .panel
    let report (b : Option BenchReason) (v : VerdictSlot) (i : LocalHead) (o : Occasion) : TxFrame := .headState {
      head := t.fh + i.val, bench := b, trim := v.trim, duds := v.duds, lastDwell := v.lastDwell, occasion := o }
    let inService (i : LocalHead) (v : VerdictSlot) (w : State) : State :=
      ((w.updHead i fun h => { h with bench := none, driveFailures := 0 }).updLearned i fun _ => v).handIn
        (report none v i .ret)
    let inRunning (w : State) (i : LocalHead) : State :=
      w.handIn (report (t.head i).bench (t.learned i) i .answer)
    let inStopped (w : State) (i : LocalHead) : State :=
      inService i { t.learned i with duds := 0, trim := if returnTrim p then 0 else (t.learned i).trim } w
    let inJog (w : State) (i : LocalHead) : State :=
      inService i { t.learned i with dudDue := true, trimDue := (t.learned i).trimDue || returnTrim p } w
    let named (l : List LocalHead) : Prop :=
      (t.sc.mode = .running → exec (.headReturn dt src p) s = .next (l.foldl inRunning t))
      ∧ (t.sc.mode = .stopped → exec (.headReturn dt src p) s = .next (l.foldl inStopped t))
      ∧ (t.sc.mode = .jog → exec (.headReturn dt src p) s = .next (l.foldl inJog t))
    (¬ taken ∨ (returnTarget p ≠ 255 ∧ (returnTarget p < t.fh ∨ t.fh + t.hc ≤ returnTarget p)) →
      exec (.headReturn dt src p) s = .next t)
    ∧ (taken → ∀ i, t.owns i = true → returnTarget p = t.fh + i.val → named [i])
    ∧ (taken → returnTarget p = 255 → named t.owned)

/-! ## Modes -/

/-- A LINE_MODE names the new mode; the changes that act at once are the hold out of STOPPED and the held-over resets out
of JOG. That the hold leaves a renewal that is due is the model's choice (log 31). -/
def Obligations.LineModeSetsTheMode : Prop :=
  ∀ (s t : State) (dt : Nat) (src : Address) (p : BitVec 8),
    s.heard dt src = t → (s.elapse dt).reads = true →
    let taken := t.joined = true ∧ t.roleOf src = some .panel
    (¬ taken ∨ p.toNat < 1 ∨ 3 < p.toNat → exec (.lineMode dt src p) s = .next t)
    ∧ (taken → ∀ c ∈ [(1, StationMode.running), (2, .stopped), (3, .jog)], p.toNat = c.1 →
      let v : State := { t with sc := { t.sc with mode := c.2 } }
      (t.sc.mode = c.2 → exec (.lineMode dt src p) s = .next t)
      ∧ (t.sc.mode = .stopped → c.2 ≠ .stopped →
        exec (.lineMode dt src p) s
          = .next (if t.sdu.stlo = .low ∧ 0 < t.setup.Hq then v.handIn (.steamHold t.setup.Hq) else v))
      ∧ (t.sc.mode = .running → c.2 ≠ .running → exec (.lineMode dt src p) s = .next v)
      ∧ (t.sc.mode = .jog → c.2 ≠ .jog →
        exec (.lineMode dt src p) s = .next (t.owned.foldl (fun w i =>
          let b := t.learned i
          let a : VerdictSlot := { b with
            trim := if b.trimDue then 0 else b.trim, duds := if b.dudDue then 0 else b.duds, trimDue := false,
            dudDue := false }
          if b.trimDue || b.dudDue then
            (w.updLearned i fun _ => a).handIn (.headState {
              head := t.fh + i.val, bench := (t.head i).bench, trim := a.trim, duds := a.duds,
              lastDwell := a.lastDwell, occasion := .jogEnd })
          else w) v)))

/-- A LINE_CLEAR taken in STOPPED or JOG empties the queues, clears the notices but for those whose condition holds, and
applies its options (what `noticesCleared` does is NoticeFramesClearAndMask). -/
def Obligations.LineClearEmptiesAndAppliesOptions : Prop :=
  ∀ (s t : State) (dt : Nat) (src : Address) (p : BitVec 16),
    s.heard dt src = t → (s.elapse dt).reads = true →
    let taken := (t.sc.mode = .stopped ∨ t.sc.mode = .jog) ∧ t.roleOf src = some .panel
      ∧ (clearTarget p = t.addr.toNat ∨ clearTarget p = 255)
    let cleared : State :=
      ({ t with rq := [], vu := { t.vu with awaiting := [], noVerdictRun := 0 } } : State).noticesCleared 0xFFFF
    (¬ taken → exec (.lineClear dt src p) s = .next t)
    ∧ (taken → ∃ u, exec (.lineClear dt src p) s = .next u
      ∧ u.rq = [] ∧ u.vu.awaiting = [] ∧ u.vu.noVerdictRun = 0
      ∧ u.lbi = cleared.lbi ∧ u.sc = cleared.sc
      ∧ (∀ c ∈ t.conditions, hasNotice u.sc.latched c.1 = (hasNotice t.sc.latched c.1 && c.2))
      ∧ (∀ n ∈ eventNotices, hasNotice u.sc.latched n = false)
      ∧ u.sc.mask = t.sc.mask
      ∧ (clearCounters p = true → u.counters = .zero ∧ ∀ i, t.owns i = true → u.headCounters.get i = .zero)
      ∧ (clearCounters p = false → u.counters = { t.counters with txDrops := cleared.counters.txDrops }
          ∧ u.headCounters = t.headCounters)
      ∧ (∀ i, u.learned i =
          if clearTrims p = true ∧ t.owns i = true then
            (if t.sc.mode = .jog then { t.learned i with trimDue := true } else { t.learned i with trim := 0 })
          else t.learned i)
      ∧ ChangesOnly ([.records, .awaiting, .silentRun, .badFrames, .recordCounts, .verdictCounts, .claimsRefused]
          ++ (ofHeads .headCounts ++ ofHeads .learned) ++ reporting) t u)

/-! ## Joining -/

/-- A JOIN from another station makes or updates a roster entry, is tested for the head-map conflict, may be answered, and
in JOINING may end a conflict and with it the last thing that kept the station from its join. The model's choices: that an
unusable JOIN is not answered (log 33), that the conflict is latched before the answer is handed in (log 14), and that the
join leaves the level behind the steam-low filter (log 18) and the own roster entry's heard state (log 37). -/
def Obligations.JoinBuildsTheRoster : Prop :=
  ∀ (s t : State) (dt : Nat) (src : Address) (p : BitVec 24),
    s.heard dt src = t → s.hears dt src .join (bytesOf 3 p.toNat) →
    let old := t.rosterEntry src
    let overlapping (e : RosterEntry) : Bool := e.role == .capper && decide (0 < e.count)
      && decide (e.first < t.fh + t.hc) && decide (t.fh < e.first + e.count)
    let fits (r : Role) : Prop := r = .capper → 1 ≤ joinCount p ∧ joinCount p ≤ 4 ∧ joinFirst p + joinCount p ≤ 64
    (src = t.addr ∨ joinRole p = none → exec (.join dt src p) s = .next t)
    ∧ ∀ r ∈ joinRole p, (¬ fits r → exec (.join dt src p) s = .next t)
      ∧ (src ≠ t.addr → fits r →
        let e : RosterEntry := {
          addr := src, role := (old.map (·.role)).getD r, first := joinFirst p, count := joinCount p,
          heard := joinHeard p }
        let answers := t.joined = true ∧ (old = none ∨ joinHeard p = .joining ∧ old.map (·.heard) = some .joined)
        let answer : TxFrame := .join { first := t.fh, count := t.hc, cause := t.sc.cause, heard := .joined }
        ∃ w u : State, exec (.join dt src p) s = .next u
          ∧ w.rosterEntry src = some e ∧ (∀ a, a ≠ src → w.rosterEntry a = t.rosterEntry a)
          ∧ ChangesOnly [.roster] t w ∧ u.sc.roster = w.sc.roster
          ∧ (overlapping e = true → w.headMapConflict = true ∧ hasNotice u.sc.latched .headMapConflict = true
              ∧ u = (if answers then (w.latch .headMapConflict).handIn answer else w.latch .headMapConflict))
          ∧ (overlapping e = false → answers → u = w.handIn answer)
          ∧ (overlapping e = false → ¬ answers → ¬ (t.headMapConflict = true ∧ w.mayJoin) → u = w)
          ∧ (overlapping e = false → t.headMapConflict = true → w.mayJoin → w.entersStopped u))

/-- The station's own JOIN frames: the first at the first idle, one every 100 ms in JOINING, and the join window from the
first echo on. That a JOIN equal to the one in flight is its echo, whichever row brings it, and that the echo implies that
the header has won, with no CONTENTION_WON before it, is the model's reading (log 8). -/
def Obligations.OwnJoinsAndTheJoinWindow : Prop :=
  ∀ (s t : State) (dt : Nat), s.elapse dt = t → t.sc.inReset = false →
    let seen : State := { t with lbi := { t.lbi with receive := .idle } }
    let timed (v : State) : State :=
      let w := v.handIn (.join { first := t.fh, count := t.hc, cause := t.sc.cause, heard := .joining })
      { w with sc := { w.sc with joinTimer := some (t.now + 100000) } }
    let echoed : State := if t.sc.window = .notStarted ∧ t.joined = false
      then { t.completed with sc := { t.sc with window := .running (t.now + 1000000) } } else t.completed
    (t.lbi.receive = .waitingIdle →
      exec (.busIdleSeen dt) s = .next (if t.joined then seen else timed seen))
    ∧ (t.lbi.receive ≠ .waitingIdle → exec (.busIdleSeen dt) s = .next t)
    ∧ (t.joined = false → (∃ w ∈ t.sc.joinTimer, w ≤ t.now) → exec (.joinTimer dt) s = .next (timed t))
    ∧ (t.joined = true ∨ (∀ w ∈ t.sc.joinTimer, t.now < w) → exec (.joinTimer dt) s = .next t)
    ∧ (t.lbi.receive ≠ .waitingIdle → ∀ f ∈ t.lbi.inFlight, f.entry.frame.kind = .join →
      exec (.joinEcho dt) s = .next echoed)
    ∧ (∀ p : BitVec 24, s.echoes dt t.addr .join (bytesOf 3 p.toNat) → exec (.join dt t.addr p) s = .next echoed)
    ∧ (t.lbi.receive = .waitingIdle ∨ (∀ f ∈ t.lbi.inFlight, f.entry.frame.kind ≠ .join) →
      exec (.joinEcho dt) s = .next t)

/-- The join window passes, and with every condition of the join the station enters STOPPED, with the NOTICE of a notice
that the new mask uncovers and its JOIN with JOINED behind it. That the join leaves the level behind the steam-low filter
(log 18) and the own roster entry's heard state (log 37) is the model's choice. -/
def Obligations.JoinWindowPassLeavesJoining : Prop :=
  ∀ (s t : State) (dt : Nat) (w : Nat), s.elapse dt = t → t.sc.inReset = false → t.sc.window = .running w →
    let passed : State := { t with sc := { t.sc with window := .passed } }
    (t.now < w → exec (.joinWindowPass dt) s = .next t)
    ∧ (w ≤ t.now → ¬ passed.mayJoin → exec (.joinWindowPass dt) s = .next passed)
    ∧ (w ≤ t.now → passed.mayJoin → ∃ u, exec (.joinWindowPass dt) s = .next u ∧ passed.entersStopped u)

/-- A SETUP or PROFILE: ignored from a source that is no PANEL, LATE_CONFIG after the join, and in JOINING its part is
held and the whole set is checked: INCOMPLETE with a part absent, else VALID or INVALID by the ranges of its fields and the
relations between them. That a join that follows leaves the level behind the steam-low filter (log 18) and the own roster
entry's heard state (log 37) is the model's choice. -/
def Obligations.SetupAndProfilePartsAreTakenInJoining : Prop :=
  (∀ s : State,
    let b := s.sc.setupParts
    (b.s0 = none ∨ b.s1 = none ∨ b.s2 = none ∨ b.s3 = none → s.setupStatus = .incomplete)
    ∧ ∀ a ∈ b.s0, ∀ c ∈ b.s1, ∀ d ∈ b.s2, ∀ e ∈ b.s3,
      let inRange := (8 ≤ a.P ∧ a.P ≤ 64) ∧ (128 ≤ a.E ∧ a.E ≤ 65535) ∧ a.O ≤ 63 ∧ (1 ≤ a.C ∧ a.C ≤ 255) ∧ a.Hq ≤ 65535
        ∧ (1 ≤ c.aC ∧ c.aC ≤ 65535) ∧ (1 ≤ c.aFs ∧ c.aFs ≤ 65535) ∧ (1 ≤ c.aS ∧ c.aS ≤ 65535)
        ∧ (1 ≤ d.aT ∧ d.aT ≤ 65535) ∧ (1 ≤ d.aR ∧ d.aR ≤ 65535) ∧ (1 ≤ d.Lmax ∧ d.Lmax ≤ 63)
        ∧ (1 ≤ e.Tcold ∧ e.Tcold ≤ 65535) ∧ (1 ≤ e.Lv ∧ e.Lv ≤ 65535)
      let fitting := a.E % a.P = 0 ∧ 16 ≤ a.E / a.P
        ∧ (0 < c.aC ∧ c.aC < c.aFs ∧ c.aFs < c.aS ∧ c.aS < d.aT ∧ d.aT < d.aR ∧ d.aR < a.E)
        ∧ a.O + 1 ≤ a.P ∧ d.Lmax + 1 ≤ a.P ∧ s.fh + s.hc ≤ a.P
      (inRange ∧ fitting → s.setupStatus = .valid) ∧ (¬ (inRange ∧ fitting) → s.setupStatus = .invalid))
  ∧ (∀ (s : State) (k : ProfileIndex),
    let b := s.sc.profiles.get k
    (b.p0 = none ∨ b.p1 = none ∨ b.p2 = none ∨ b.p3 = none ∨ b.p4 = none → s.profileStatus k = .incomplete)
    ∧ ∀ a ∈ b.p0, ∀ c ∈ b.p1, ∀ d ∈ b.p2, ∀ e ∈ b.p3, ∀ f ∈ b.p4,
      let inRange := (1 ≤ a.Vb ∧ a.Vb ≤ 10000) ∧ (1000 ≤ a.rho ∧ a.rho ≤ 2000) ∧ a.Tref ≤ 1200 ∧ (1 ≤ a.f ∧ a.f ≤ 4)
        ∧ c.B ≤ 400 ∧ (1 ≤ c.Dmin ∧ c.Dmin ≤ 1000) ∧ (1 ≤ c.Dmax ∧ c.Dmax ≤ 1000) ∧ c.Kh ≤ 255
        ∧ d.Kt ≤ 255 ∧ d.Pext ≤ 300 ∧ d.Tt ≤ 1000 ∧ d.Tmin ≤ 1000
        ∧ e.Tmax ≤ 1000 ∧ e.thetaMin ≤ 720 ∧ (1 ≤ e.speed ∧ e.speed ≤ 600) ∧ e.G ≤ 255
        ∧ f.target ≤ 4000 ∧ f.stepMax ≤ 200 ∧ f.Nb ≤ 15
      let fitting := c.Dmin ≤ c.Dmax ∧ d.Tmin ≤ d.Tt ∧ d.Tt ≤ e.Tmax
      (inRange ∧ fitting → s.profileStatus k = .valid) ∧ (¬ (inRange ∧ fitting) → s.profileStatus k = .invalid))
  ∧ ∀ (s t : State) (dt : Nat) (src : Address) (p : BitVec 64),
    s.heard dt src = t → (s.elapse dt).reads = true →
    (t.roleOf src ≠ some .panel → exec (.setup dt src p) s = .next t ∧ exec (.profile dt src p) s = .next t)
    ∧ (t.roleOf src = some .panel → t.joined = true →
      exec (.setup dt src p) s = .next (t.latch .lateConfig) ∧ exec (.profile dt src p) s = .next (t.latch .lateConfig)
      ∧ hasNotice (t.latch .lateConfig).sc.latched .lateConfig = true)
    ∧ (t.roleOf src = some .panel → t.joined = false → 3 < setupPart p → exec (.setup dt src p) s = .next t)
    ∧ (t.roleOf src = some .panel → t.joined = false → (7 < profileNumber p ∨ 4 < profilePart p) →
      exec (.profile dt src p) s = .next t)
    ∧ (t.roleOf src = some .panel → t.joined = false → setupPart p ≤ 3 →
      let b := t.sc.setupParts
      let held : SetupParts := {
        s0 := if setupPart p = 0 then some (setupS0 p) else b.s0,
        s1 := if setupPart p = 1 then some (setupS1 p) else b.s1,
        s2 := if setupPart p = 2 then some (setupS2 p) else b.s2,
        s3 := if setupPart p = 3 then some (setupS3 p) else b.s3 }
      let v : State := { t with sc := { t.sc with setupParts := held } }
      ∃ u, exec (.setup dt src p) s = .next u ∧ u.sc.setupParts = held
        ∧ (v.setupStatus = .incomplete → u = v)
        ∧ (v.setupStatus = .invalid → u = v.latch .configInvalid ∧ hasNotice u.sc.latched .configInvalid = true)
        ∧ (v.setupStatus = .valid → ¬ v.mayJoin → u = v)
        ∧ (v.setupStatus = .valid → v.mayJoin → v.entersStopped u))
    ∧ (t.roleOf src = some .panel → t.joined = false → profileNumber p ≤ 7 → profilePart p ≤ 4 →
      let k : ProfileIndex := Fin.ofNat 8 (profileNumber p)
      let b := t.sc.profiles.get k
      let held : ProfileParts := {
        p0 := if profilePart p = 0 then some (profileP0 p) else b.p0,
        p1 := if profilePart p = 1 then some (profileP1 p) else b.p1,
        p2 := if profilePart p = 2 then some (profileP2 p) else b.p2,
        p3 := if profilePart p = 3 then some (profileP3 p) else b.p3,
        p4 := if profilePart p = 4 then some (profileP4 p) else b.p4 }
      let v : State := { t with sc := { t.sc with profiles := t.sc.profiles.set k held } }
      let w := if v.profileStatus k = .invalid then v.latch .configInvalid else v
      ∃ u, exec (.profile dt src p) s = .next u ∧ u.sc.profiles = v.sc.profiles
        ∧ (v.profileStatus k = .invalid → hasNotice u.sc.latched .configInvalid = true)
        ∧ (¬ v.mayJoin → u = w) ∧ (v.mayJoin → w.entersStopped u))

/-! ## Notices and counters -/

/-- NOTICE_CLEAR, NOTICE_MASK_SET and NOTICE_MASK_CLEAR; what latching a notice does, and what clearing notices does: a
condition notice removed while its condition holds is latched again, which asks for a NOTICE where it is unmasked. That
they are taken in the order of their bits is the model's order (log 14). -/
def Obligations.NoticeFramesClearAndMask : Prop :=
  (∀ (s : State) (n : Notice),
    let v : State := { s with sc := { s.sc with latched := s.sc.latched ||| oneBit n.bit } }
    let waits := s.lbi.queue.any fun e => e.frame.isNotice
    (hasNotice s.sc.latched n = true → s.latch n = s)
    ∧ (hasNotice s.sc.latched n = false → hasNotice s.sc.mask n = true ∨ waits = true → s.latch n = v)
    ∧ (hasNotice s.sc.latched n = false → hasNotice s.sc.mask n = false → waits = false →
      s.latch n = v.handIn (.notice none))
    ∧ hasNotice (s.latch n).sc.latched n = true
    ∧ n.bit = [Notice.addressConflict, .headMapConflict, .configInvalid, .recordUnderrun, .recordOverrun, .headBenched,
        .driveFault, .busIsolated, .steamLow, .verdictEvicted, .detectorSilent, .txDrop, .encoderFault, .lateConfig,
        .cycleAborted, .badFrame].idxOf n)
  ∧ (∀ (s : State) (w : Word),
    let u := s.noticesCleared w
    let asks := s.conditions.any fun c =>
      c.2 && hasNotice w c.1 && hasNotice s.sc.latched c.1 && !hasNotice s.sc.mask c.1
    let waits := s.lbi.queue.any fun e => e.frame.isNotice
    (∀ c ∈ s.conditions, hasNotice u.sc.latched c.1 = (hasNotice s.sc.latched c.1 && (!hasNotice w c.1 || c.2)))
    ∧ (∀ n ∈ eventNotices, hasNotice u.sc.latched n = (hasNotice s.sc.latched n && !hasNotice w n))
    ∧ (asks = false ∨ waits = true →
      u.lbi = s.lbi ∧ u.counters = s.counters
      ∧ hasNotice u.sc.latched .txDrop = (hasNotice s.sc.latched .txDrop && !hasNotice w .txDrop))
    ∧ (asks = true → waits = false → s.lbi.queue.length < 16 →
      u.lbi = (s.handIn (.notice none)).lbi ∧ u.counters = s.counters
      ∧ hasNotice u.sc.latched .txDrop = (hasNotice s.sc.latched .txDrop && !hasNotice w .txDrop))
    ∧ (asks = true → waits = false → 16 ≤ s.lbi.queue.length → hasNotice u.sc.latched .txDrop = true))
  ∧ ∀ (s t : State) (dt : Nat) (src : Address) (p : BitVec 24),
    s.heard dt src = t → (s.elapse dt).reads = true →
    let taken := t.joined = true ∧ t.roleOf src = some .panel
      ∧ (noticeTarget p = t.addr.toNat ∨ noticeTarget p = 255)
    let w := noticeWord p
    (¬ taken → exec (.noticeClear dt src p) s = .next t ∧ exec (.noticeMaskSet dt src p) s = .next t
      ∧ exec (.noticeMaskClear dt src p) s = .next t)
    ∧ (taken → exec (.noticeClear dt src p) s = .next (t.noticesCleared w) ∧ ChangesOnly reporting t (t.noticesCleared w))
    ∧ (taken → exec (.noticeMaskSet dt src p) s = .next { t with sc := { t.sc with mask := t.sc.mask ||| w } })
    ∧ (taken →
      let v : State := { t with sc := { t.sc with mask := t.sc.mask &&& ~~~w } }
      exec (.noticeMaskClear dt src p) s = .next
        (if t.sc.latched &&& t.sc.mask &&& w = 0 ∨ t.lbi.queue.any (fun e => e.frame.isNotice) = true then v
          else v.handIn (.notice none)))

/-- A COUNTER_REQUEST for a known group is answered with one COUNTER_REPLY, and one for an unknown group with nothing. -/
def Obligations.CounterRequestIsAnswered : Prop :=
  ∀ (s t : State) (dt : Nat) (src : Address) (p : BitVec 16),
    s.heard dt src = t → (s.elapse dt).reads = true →
    let taken := t.joined = true ∧ t.roleOf src = some .panel
      ∧ (requestTarget p = t.addr.toNat ∨ requestTarget p = 255)
    let k := t.counters
    let answer (g a b c : Nat) : Prop := exec (.counterRequest dt src p) s = .next (t.handIn (.counterReply g a b c))
    (¬ taken → exec (.counterRequest dt src p) s = .next t)
    ∧ (taken →
      (requestGroup p = 0 → answer 0 k.badFrames k.txDrops k.underruns)
      ∧ (requestGroup p = 1 → answer 1 k.overruns k.duplicates k.lateRecords)
      ∧ (requestGroup p = 2 → answer 2 k.surplus k.orphans k.badRecords)
      ∧ (requestGroup p = 3 → answer 3 k.evictions k.lateVerdicts k.mismatches)
      ∧ (requestGroup p = 4 → answer 4 k.claimsRefused 0 0)
      ∧ (∀ i, t.owns i = true →
        let c := t.headCounters.get i
        (requestGroup p = 16 + 4 * i.val → answer (16 + 4 * i.val) c.seated c.cappedOk c.cappedSuspect)
        ∧ (requestGroup p = 17 + 4 * i.val → answer (17 + 4 * i.val) c.notCapped c.goods c.duds)
        ∧ (requestGroup p = 18 + 4 * i.val → answer (18 + 4 * i.val) c.noVerdicts c.shortFlushes c.noFlushes)
        ∧ (requestGroup p = 19 + 4 * i.val → answer (19 + 4 * i.val) c.driveFaults (t.learned i).duds
            (BitVec.ofInt 16 (t.learned i).trim).toNat))
      ∧ (4 < requestGroup p → requestGroup p < 16 → exec (.counterRequest dt src p) s = .next t)
      ∧ (16 + 4 * t.hc ≤ requestGroup p → exec (.counterRequest dt src p) s = .next t))

/-! ## Line bus -/

/-- Contention: the head frame becomes the frame in flight, and its claim is ON_BUS from then on; another station's start
bit is read; a won header fixes a NOTICE's content, and the claim of a frame that has won stays ON_BUS until its echo. Of
the two moments the spec names for ON_BUS the state holds both, which is the model's reading (log 10). -/
def Obligations.ContentionTakesTheHeadFrame : Prop :=
  ∀ (s t : State) (dt : Nat), s.elapse dt = t → t.sc.inReset = false →
    (∀ e ∈ t.lbi.queue.head?, t.lbi.receive = .idle → t.lbi.inFlight = none →
      ∃ u, exec (.frameContentionStart dt) s = .next u
        ∧ u.lbi = { t.lbi with
            queue := t.lbi.queue.tail, inFlight := some { entry := e, won := false }, receive := .receiving }
        ∧ (∀ i, u.claim i = (if t.owns i = true ∧ e.isClaimOf (t.fh + i.val) = true ∧ (t.claim i).state = .queued
            then { t.claim i with state := .onBus false } else t.claim i))
        ∧ ChangesOnly ([.queue, .inFlight, .receive] ++ ofHeads .claim) t u)
    ∧ (t.lbi.queue = [] ∨ t.lbi.receive ≠ .idle ∨ t.lbi.inFlight ≠ none →
      exec (.frameContentionStart dt) s = .next t)
    ∧ exec (.startBit dt) s = .next { t with lbi := { t.lbi with
        receive := if t.lbi.receive = .idle then .receiving else t.lbi.receive } }
    ∧ (∀ f ∈ t.lbi.inFlight, f.won = false →
      ∃ u, exec (.contentionWon dt) s = .next u
        ∧ u.lbi = { t.lbi with inFlight := some {
            entry := {
              f.entry with
              frame :=
                if f.entry.frame.isNotice then .notice (some { latched := t.sc.latched, mask := t.sc.mask })
                else f.entry.frame },
            won := true } }
        ∧ (∀ i, u.claim i = (if t.owns i = true ∧ f.entry.isClaimOf (t.fh + i.val) = true
              ∧ ((t.claim i).state = .queued ∨ ∃ w, (t.claim i).state = .onBus w)
            then { t.claim i with state := .onBus true } else t.claim i))
        ∧ ChangesOnly (.inFlight :: ofHeads .claim) t u)
    ∧ ((∀ f ∈ t.lbi.inFlight, f.won = true) → exec (.contentionWon dt) s = .next t)

/-- The read-back: in the header a recessive bit read as dominant is a lost contention, and every other difference of the
bit sent and the bit read is a transmit error. A bit of the header is compared before the header has won and a later bit
after it; a reading of any other bit changes nothing, which is the model's choice (log 28), as is which bits the frame
check sends (`wireBits`, log 36). Either puts the frame back, at the place its class and first age give it or, at a full
queue, as any arriving frame (what `enter` does is HandedInFrameTakesItsPlace); the error also counts one bad frame. A bit
read as it was sent changes nothing. -/
def Obligations.FrameIsPutBackAtItsPlace : Prop :=
  ∀ (s t : State) (dt bit : Nat) (level : Bool), s.elapse dt = t → t.sc.inReset = false →
    (t.lbi.inFlight = none →
      exec (.lostContention ⟨dt, bit, level⟩) s = .next t ∧ exec (.transmitError ⟨dt, bit, level⟩) s = .next t)
    ∧ ∀ f ∈ t.lbi.inFlight,
      let sent := (wireBits f.entry.frame.cls f.entry.frame.kind.code t.addr.toNat f.entry.frame.payload)[bit]?
      let lost := f.won = false ∧ bit < 14 ∧ sent = some true ∧ level = false
      let error := sent = some (!level) ∧ (f.won = false ∧ bit < 14 ∧ level = true ∨ f.won = true ∧ 14 ≤ bit)
      let back : TxEntry := if f.entry.frame.isNotice then { f.entry with frame := .notice none } else f.entry
      let rest (q : List TxEntry) := if f.entry.frame.isNotice then q.filter (fun x => !x.frame.isNotice) else q
      let released (v w : State) : Prop :=
        w.lbi = { v.lbi with inFlight := none, queue := rest v.lbi.queue }
        ∧ (∀ i, w.claim i = (if t.owns i = true ∧ f.entry.isClaimOf (t.fh + i.val) = true
              ∧ ∃ b, (t.claim i).state = .onBus b
            then { t.claim i with state := .queued } else t.claim i))
        ∧ ChangesOnly ([.inFlight, .queue] ++ ofHeads .claim) v w
      let counted := ({ t with counters := { t.counters with
        badFrames := min 65535 (t.counters.badFrames + 1) } } : State).latch .badFrame
      (¬ lost → exec (.lostContention ⟨dt, bit, level⟩) s = .next t)
      ∧ (¬ error → exec (.transmitError ⟨dt, bit, level⟩) s = .next t)
      ∧ (lost → ∃ w u : State, exec (.lostContention ⟨dt, bit, level⟩) s = .next u ∧ released t w ∧ u = w.enter back
        ∧ ((rest t.lbi.queue).length < 16 →
            u.lbi = { t.lbi with inFlight := none, queue := insertTx back (rest t.lbi.queue) }
            ∧ ChangesOnly ([.inFlight, .queue] ++ ofHeads .claim) t u))
      ∧ (error → ∃ w u : State, exec (.transmitError ⟨dt, bit, level⟩) s = .next u ∧ released counted w
        ∧ u = { w.enter back with lbi := { (w.enter back).lbi with errorCounted := true } }
        ∧ u.lbi.inFlight = none ∧ u.counters.badFrames = min 65535 (t.counters.badFrames + 1)
        ∧ hasNotice u.sc.latched .badFrame = true)

/-- A frame judged bad is counted and latches BAD_FRAME, unless this station's own transmit error has counted it. Which
check is the right one, where a bit enters the register, is the model's choice (`crc16`, log 36). -/
def Obligations.BadFrameIsCountedOnce : Prop :=
  ∀ (s t : State) (dt : Nat) (r : FrameRead), s.elapse dt = t → t.reads = true →
    let wrongLength : Bool := decide (8 < r.len.toNat)
      || (FrameKind.ofCode r.kind.toNat).any (fun k => decide (r.len.toNat ≠ k.length))
    let wrongCheck : Bool :=
      r.crc != crc16 (checkedBits r.cls.toNat r.kind.toNat r.src.toNat r.len.toNat r.payload)
    let bad : Bool := wrongLength || wrongCheck || r.endDominant || r.cutShort
    (bad = true → t.lbi.errorCounted = false →
      ∃ u, exec (.badFrameReceived dt r) s = .next u
        ∧ u = ({ t with
            lbi := { t.lbi with receive := .idle, errorCounted := false },
            counters := { t.counters with badFrames := min 65535 (t.counters.badFrames + 1) } } : State).latch .badFrame
        ∧ u.lbi.receive = .idle ∧ u.counters.badFrames = min 65535 (t.counters.badFrames + 1) ∧ hasNotice u.sc.latched .badFrame = true
        ∧ ChangesOnly ([.receive, .badFrames] ++ reporting) t u)
    ∧ (bad = true → t.lbi.errorCounted = true →
      exec (.badFrameReceived dt r) s
        = .next { t with lbi := { t.lbi with receive := .idle, errorCounted := false } })
    ∧ (bad = false → exec (.badFrameReceived dt r) s = .next t)

/-- What every valid frame does: from another station it restarts the silence timer, ends ISOLATED, and on this station's
address raises the conflict; an echo (log 8) without an owner ends the frame in flight; nothing is read before the first
idle. -/
def Obligations.EveryValidFrameIsHeard : Prop :=
  ∀ (s t : State) (dt : Nat) (src : Address) (kind : BitVec 5) (payload : List Byte),
    s.elapse dt = t →
    (t.reads = true → t.isEcho src kind.toNat payload = false →
      let v : State := { t with
        lbi := { t.lbi with receive := .idle, errorCounted := false, silenceStart := t.now },
        sdu := { t.sdu with
          isolated := false, relisten := if t.sdu.isolated then some (t.now + 50000) else t.sdu.relisten } }
      ∃ u, exec (.unownedFrame dt src kind payload) s = .next u ∧ u = s.heard dt src
        ∧ u = (if src = t.addr then
            ({ v with sc := { v.sc with addressConflict := true } } : State).latch .addressConflict else v)
        ∧ u.lbi.receive = .idle ∧ u.lbi.silenceStart = t.now ∧ u.sdu.isolated = false
        ∧ u.sdu.relisten = (if t.sdu.isolated then some (t.now + 50000) else t.sdu.relisten)
        ∧ (src ≠ t.addr → ChangesOnly [.receive, .silence, .isolation] t u)
        ∧ (src = t.addr → u.sc.addressConflict = true ∧ hasNotice u.sc.latched .addressConflict = true
            ∧ ChangesOnly hearing t u))
    ∧ (t.reads = true → t.isEcho src kind.toNat payload = true →
      exec (.unownedFrame dt src kind payload) s
        = .next { t with lbi := { t.lbi with receive := .idle, errorCounted := false, inFlight := none } })
    ∧ (t.reads = false →
      exec (.unownedFrame dt src kind payload) s = .next t
      ∧ (∀ p : BitVec 64, exec (.jarRecord dt src p) s = .next t ∧ exec (.setup dt src p) s = .next t
          ∧ exec (.profile dt src p) s = .next t)
      ∧ (∀ p : BitVec 56, exec (.verdict dt src p) s = .next t)
      ∧ (∀ p : BitVec 32, exec (.drawClaim dt src p) s = .next t)
      ∧ (∀ p : BitVec 24, exec (.join dt src p) s = .next t ∧ exec (.noticeClear dt src p) s = .next t
          ∧ exec (.noticeMaskSet dt src p) s = .next t ∧ exec (.noticeMaskClear dt src p) s = .next t)
      ∧ (∀ p : BitVec 16, exec (.steamHold dt src p) s = .next t ∧ exec (.headReturn dt src p) s = .next t
          ∧ exec (.lineClear dt src p) s = .next t ∧ exec (.counterRequest dt src p) s = .next t)
      ∧ (∀ p : BitVec 8, exec (.drawEnd dt src p) s = .next t ∧ exec (.lineMode dt src p) s = .next t)
      ∧ exec (.joinEcho dt) s = .next t ∧ ∀ r, exec (.badFrameReceived dt r) s = .next t)

/-- A frame that arrives, handed in or put back, takes its place by class and age. At a full queue the youngest frame of
the worst class gives way to a better one, and otherwise the arriving frame is dropped; either is counted and latches
TX_DROP, whose own NOTICE then arrives at a full queue too, a second loss that latches nothing more (log 21). A dropped
DRAW_CLAIM sends its claim to RETRY, or to NONE where the head no longer claims; that a head in CLAIMING whose claims have
ended counts as one that no longer claims is the model's choice (log 11). A dropped STEAM_HOLD makes the renewal
due, in place of one that is due already (log 31). -/
def Obligations.HandedInFrameTakesItsPlace : Prop :=
  (∀ (s : State) (f : TxFrame),
    s.handIn f = ({ s with lbi := { s.lbi with nextAge := s.lbi.nextAge + 1 } } : State).enter
      { frame := f, age := s.lbi.nextAge })
  ∧ ∀ (s : State) (e : TxEntry), s.queueInOrder → s.lbi.queue.length ≤ 16 → (∀ x ∈ s.lbi.queue, x.age ≠ e.age) →
    e.age < s.lbi.nextAge →
    let k := e.frame.cls
    let goesFirst (x : TxEntry) : Bool := decide (x.frame.cls < k ∨ x.frame.cls = k ∧ x.age < e.age)
    let before := s.lbi.queue.filter goesFirst
    let after := s.lbi.queue.filter fun x => !goesFirst x
    let dropped := ∀ x ∈ s.lbi.queue, x.frame.cls ≤ k
    let placed : State := { s with
      lbi := { s.lbi with queue := if dropped then s.lbi.queue else before ++ e :: after.dropLast },
      counters := { s.counters with txDrops := min 65535 (s.counters.txDrops + 1) } }
    let latched : State := { placed with sc := { placed.sc with latched := placed.sc.latched ||| oneBit Notice.txDrop.bit } }
    let notice : TxEntry := { frame := .notice none, age := s.lbi.nextAge }
    let asked : State := { latched with
      lbi := { latched.lbi with
        nextAge := s.lbi.nextAge + 1,
        queue := if ∀ x ∈ placed.lbi.queue, x.frame.cls ≤ 6 then placed.lbi.queue
          else placed.lbi.queue.filter (fun x => decide (x.frame.cls ≤ 6))
            ++ notice :: (placed.lbi.queue.filter fun x => decide (6 < x.frame.cls)).dropLast },
      counters := { latched.counters with txDrops := min 65535 (placed.counters.txDrops + 1) } }
    let v : State := if hasNotice s.sc.latched .txDrop = true then placed
      else if hasNotice s.sc.mask .txDrop = true ∨ placed.lbi.queue.any (fun x => x.frame.isNotice) = true then latched
      else asked
    let u := s.enter e
    (s.lbi.queue.length < 16 → u = { s with lbi := { s.lbi with queue := before ++ e :: after } })
    ∧ (s.lbi.queue.length = 16 → hasNotice u.sc.latched .txDrop = true)
    ∧ (s.lbi.queue.length = 16 → ¬ (dropped ∧ k = 0) → u = v)
    ∧ (s.lbi.queue.length = 16 → dropped →
      (∀ q, e.frame = .steamHold q → u = { v with sdu := { v.sdu with renewal := some (s.now + 5000) } })
      ∧ (∀ g, e.frame = .drawEnd g → u = v)
      ∧ (∀ i f d, s.owns i = true → e.frame = .drawClaim (s.fh + i.val) f d →
        let claiming := (s.head i).phase = .claiming ∧ (s.head i).bench = none ∧ (s.head i).claimsEnded = false
        u = v.updClaim i fun c => if claiming then { c with state := .retry (s.now + 5000) } else .clear)
      ∧ (∀ g f d, (g < s.fh ∨ s.fh + s.hc ≤ g) → e.frame = .drawClaim g f d → u = v))

/-- A frame this station sends is judged valid by a station that reads it undisturbed, and its wire form has the bit times
of its length. Its payload is the fields of its kind's layout, the first in the highest bits, and the kinds that a capper
station also reads are read back with every field at every value the layout holds. -/
def Obligations.OwnFramesReadBack : Prop :=
  (∀ (f : TxFrame) (src : Address),
    judgeFrame (f.asRead src) = .valid ∧ f.payload.length = f.kind.length
      ∧ (wireBits f.cls f.kind.code src.toNat f.payload).length = 40 + 8 * f.kind.length)
  ∧ (∀ r : JarReport, r.head < 64 → r.angle < 4096 →
    let outcomes : List JarOutcome := [.cappedOk, .cappedSuspect, .noCap, .benched, .stopped, .aborted]
    (TxFrame.jarReport r).payload = bytesOf 8 (BitVec.ofNat 16 r.seq ++ r.flags ++ BitVec.ofNat 8 r.torque
      ++ BitVec.ofNat 3 (outcomes.idxOf r.outcome) ++ BitVec.ofNat 3 r.profile.val ++ BitVec.ofNat 6 r.head
      ++ BitVec.ofNat 12 r.angle).toNat)
  ∧ (∀ f : JarFlag, f.bit = [JarFlag.recordMissing, .recordRange, .overfill, .headspaceHigh, .dwellClamped, .purgeAdded,
      .shortFlush, .noFlush, .noCap, .driveLate, .driveFault, .underTorque, .overTorque, .crossThread, .jog,
      .aborted].idxOf f)
  ∧ (∀ r : HeadReport,
    let occasions : List Occasion := [.bench, .ret, .answer, .jogEnd]
    (TxFrame.headState r).payload = bytesOf 7 (BitVec.ofNat 8 r.head ++ (0 : BitVec 3)
      ++ BitVec.ofNat 2 (occasions.idxOf r.occasion) ++ BitVec.ofNat 2 ([none, some .drive, some .duds].idxOf r.bench)
      ++ BitVec.ofBool r.bench.isSome ++ BitVec.ofInt 16 r.trim ++ BitVec.ofNat 8 r.duds
      ++ BitVec.ofNat 16 r.lastDwell).toNat)
  ∧ (∀ c : NoticeContent, (TxFrame.notice (some c)).payload = bytesOf 4 (c.latched ++ c.mask).toNat)
  ∧ (∀ g a b c : Nat, (TxFrame.counterReply g a b c).payload
      = bytesOf 7 (BitVec.ofNat 8 g ++ BitVec.ofNat 16 a ++ BitVec.ofNat 16 b ++ BitVec.ofNat 16 c).toNat)
  ∧ (∀ j : JoinReport, (TxFrame.join j).payload = bytesOf 3 ((0 : BitVec 3) ++ BitVec.ofBool (j.cause == .pin)
      ++ BitVec.ofBool (j.heard == .joined) ++ (1 : BitVec 3) ++ BitVec.ofNat 8 j.first ++ BitVec.ofNat 8 j.count).toNat)
  ∧ (∀ (g f d : Nat), g < 256 → f < 256 → d < 65536 →
    ∃ p : BitVec 32, bytesOf 4 p.toNat = (TxFrame.drawClaim g f d).payload
      ∧ claimHead p = g ∧ claimUnits p = f ∧ claimDwell p = d)
  ∧ (∀ q : Nat, q < 65536 → ∃ p : BitVec 16, bytesOf 2 p.toNat = (TxFrame.steamHold q).payload ∧ p.toNat = q)
  ∧ (∀ g : Nat, g < 256 → ∃ p : BitVec 8, bytesOf 1 p.toNat = (TxFrame.drawEnd g).payload ∧ p.toNat = g)
  ∧ ∀ j : JoinReport, j.first < 256 → j.count < 256 →
    ∃ p : BitVec 24, bytesOf 3 p.toNat = (TxFrame.join j).payload ∧ joinRole p = some .capper
      ∧ joinHeard p = j.heard ∧ joinFirst p = j.first ∧ joinCount p = j.count

/-! ## What every step keeps -/

/-- The state after reset meets every condition below. -/
def Obligations.ResetStateMeetsEveryInvariant : Prop :=
  State.reset.withinSizes ∧ State.reset.countersBounded ∧ State.reset.learnedInRange ∧ State.reset.queueInOrder
    ∧ State.reset.idleHeadsEmpty ∧ State.reset.valvesOnlyInFlush ∧ State.reset.seqsHeldOnce ∧ State.reset.recordsOwned
    ∧ State.reset.drawsWithinHeader ∧ State.reset.tableKeysOnce ∧ State.reset.deferredBehindStop
    ∧ State.reset.isolatedOnlyWhenCapping ∧ State.reset.positionOnTurret ∧ State.reset.awaitingInOrder
    ∧ State.reset.steamLawful ∧ State.reset.noDrawEndBehind

/-- The Record Queue, the draw table, the awaiting-verdict table and the transmit queue stay within their sizes; every
counter stays at or below 65535; trims, dud counts, drive-failure counts, the no-verdict run and the pitch measurement
stay in their ranges. -/
def Obligations.ListsCountersAndLearnedValuesStayInRange : Prop :=
  KeptByStep fun s => s.withinSizes ∧ s.countersBounded ∧ s.learnedInRange

/-- The transmit queue stays in the order of class and age, with at most one NOTICE. -/
def Obligations.TransmitQueueStaysInOrder : Prop :=
  KeptByStep State.queueInOrder

/-- A head with no open cycle holds nothing of one, and a valve is open in FLUSHING only. -/
def Obligations.IdleHeadsStayEmptyAndValvesInFlush : Prop :=
  KeptByStep fun s => s.idleHeadsEmpty ∧ s.valvesOnlyInFlush

/-- No sequence number is held twice. -/
def Obligations.SequenceNumbersAreHeldOnce : Prop :=
  KeptByStep State.seqsHeldOnce

/-- After the join this station's entries in the draw table never sum to more than the header's capacity. An open valve has
its live entry, which outlasts its valve-close time, so the entries of the open valves sum to no more either; this is kept
by every step from a state in which no DRAW_END is behind a head that may yet claim in its cycle (log 35). -/
def Obligations.OwnDrawsStayWithinTheHeader : Prop :=
  KeptByStep State.drawsWithinHeader
  ∧ (∀ s u : State, s.steamLawful → s.noDrawEndBehind → step s = .next u → u.steamLawful)
  ∧ ∀ s : State, s.steamLawful → s.joined = true → s.openUnits ≤ s.setup.C

/-- The draw table holds at most one entry for each station and head, the queued records stay those of owned heads with
values in range, and the awaiting-verdict table stays in the order of capped time. -/
def Obligations.TableEntriesStayLegal : Prop :=
  KeptByStep fun s => s.tableKeysOnce ∧ s.recordsOwned ∧ s.awaitingInOrder

/-- The position stays on the turret and the lag within a revolution, and the station never stands ISOLATED outside RUNNING
and JOG. -/
def Obligations.PositionStaysOnTheTurretAndIsolationInCapping : Prop :=
  KeptByStep fun s => s.positionOnTurret ∧ s.isolatedOnlyWhenCapping
end

