-- ==== Sys2Proof/Laws/State.lean ====
section
/-!
SUPPORT. Reading a state after an update: one lemma per field per update of Ops and its neighbours, and the values of one
head after a change at a head.
-/
namespace Sys2Proof

theorem PerHead.get_set {α : Type} (p : PerHead α) (i j : LocalHead) (v : α) :
    (p.set i v).get j = if j = i then v else p.get j := by
  fin_cases i <;> fin_cases j <;> rfl

theorem PerHead.get_upd {α : Type} (p : PerHead α) (i j : LocalHead) (f : α → α) :
    (p.upd i f).get j = if j = i then f (p.get i) else p.get j :=
  PerHead.get_set p i j _

theorem PerHead.get_upd_same {α : Type} (p : PerHead α) (i : LocalHead) (f : α → α) :
    (p.upd i f).get i = f (p.get i) := by
  simp [PerHead.get_upd]

theorem PerHead.get_upd_other {α : Type} (p : PerHead α) {i j : LocalHead} (h : j ≠ i) (f : α → α) :
    (p.upd i f).get j = p.get j := by
  simp [PerHead.get_upd, h]

theorem PerHead.get_all {α : Type} (v : α) (i : LocalHead) : (PerHead.all v).get i = v := by
  fin_cases i <;> rfl

theorem PerHead.get_map {α β : Type} (p : PerHead α) (f : α → β) (i : LocalHead) : (p.map f).get i = f (p.get i) := by
  fin_cases i <;> rfl

theorem PerHead.ext_get {α : Type} {p q : PerHead α} (h : ∀ i, p.get i = q.get i) : p = q := by
  obtain ⟨a, b, c, d⟩ := p
  obtain ⟨a', b', c', d'⟩ := q
  have h0 := h 0
  have h1 := h 1
  have h2 := h 2
  have h3 := h 3
  simp only [PerHead.get] at h0 h1 h2 h3
  subst h0 h1 h2 h3
  rfl

end Sys2Proof

namespace Sys2Proof.Machine

/-! ### updHead -/

@[simp] theorem State.updHead_pending (s : State) (i : LocalHead) (f : Head → Head) :
    (s.updHead i f).pending = s.pending :=
  rfl
@[simp] theorem State.updHead_now (s : State) (i : LocalHead) (f : Head → Head) : (s.updHead i f).now = s.now :=
  rfl
@[simp] theorem State.updHead_ttu (s : State) (i : LocalHead) (f : Head → Head) : (s.updHead i f).ttu = s.ttu :=
  rfl
@[simp] theorem State.updHead_heads (s : State) (i : LocalHead) (f : Head → Head) :
    (s.updHead i f).heads = s.heads.upd i f :=
  rfl
@[simp] theorem State.updHead_rq (s : State) (i : LocalHead) (f : Head → Head) : (s.updHead i f).rq = s.rq :=
  rfl
@[simp] theorem State.updHead_sdu (s : State) (i : LocalHead) (f : Head → Head) : (s.updHead i f).sdu = s.sdu :=
  rfl
@[simp] theorem State.updHead_dlc (s : State) (i : LocalHead) (f : Head → Head) : (s.updHead i f).dlc = s.dlc :=
  rfl
@[simp] theorem State.updHead_vu (s : State) (i : LocalHead) (f : Head → Head) : (s.updHead i f).vu = s.vu :=
  rfl
@[simp] theorem State.updHead_lbi (s : State) (i : LocalHead) (f : Head → Head) : (s.updHead i f).lbi = s.lbi :=
  rfl
@[simp] theorem State.updHead_sc (s : State) (i : LocalHead) (f : Head → Head) : (s.updHead i f).sc = s.sc :=
  rfl
@[simp] theorem State.updHead_counters (s : State) (i : LocalHead) (f : Head → Head) :
    (s.updHead i f).counters = s.counters :=
  rfl
@[simp] theorem State.updHead_headCounters (s : State) (i : LocalHead) (f : Head → Head) :
    (s.updHead i f).headCounters = s.headCounters :=
  rfl

/-! ### updClaim -/

@[simp] theorem State.updClaim_pending (s : State) (i : LocalHead) (f : Claim → Claim) :
    (s.updClaim i f).pending = s.pending :=
  rfl
@[simp] theorem State.updClaim_now (s : State) (i : LocalHead) (f : Claim → Claim) : (s.updClaim i f).now = s.now :=
  rfl
@[simp] theorem State.updClaim_ttu (s : State) (i : LocalHead) (f : Claim → Claim) : (s.updClaim i f).ttu = s.ttu :=
  rfl
@[simp] theorem State.updClaim_heads (s : State) (i : LocalHead) (f : Claim → Claim) :
    (s.updClaim i f).heads = s.heads :=
  rfl
@[simp] theorem State.updClaim_rq (s : State) (i : LocalHead) (f : Claim → Claim) : (s.updClaim i f).rq = s.rq :=
  rfl
@[simp] theorem State.updClaim_sdu (s : State) (i : LocalHead) (f : Claim → Claim) :
    (s.updClaim i f).sdu = { s.sdu with claims := s.sdu.claims.upd i f } :=
  rfl
@[simp] theorem State.updClaim_dlc (s : State) (i : LocalHead) (f : Claim → Claim) : (s.updClaim i f).dlc = s.dlc :=
  rfl
@[simp] theorem State.updClaim_vu (s : State) (i : LocalHead) (f : Claim → Claim) : (s.updClaim i f).vu = s.vu :=
  rfl
@[simp] theorem State.updClaim_lbi (s : State) (i : LocalHead) (f : Claim → Claim) : (s.updClaim i f).lbi = s.lbi :=
  rfl
@[simp] theorem State.updClaim_sc (s : State) (i : LocalHead) (f : Claim → Claim) : (s.updClaim i f).sc = s.sc :=
  rfl
@[simp] theorem State.updClaim_counters (s : State) (i : LocalHead) (f : Claim → Claim) :
    (s.updClaim i f).counters = s.counters :=
  rfl
@[simp] theorem State.updClaim_headCounters (s : State) (i : LocalHead) (f : Claim → Claim) :
    (s.updClaim i f).headCounters = s.headCounters :=
  rfl

/-! ### updSlot -/

@[simp] theorem State.updSlot_pending (s : State) (i : LocalHead) (f : DriveSlot → DriveSlot) :
    (s.updSlot i f).pending = s.pending :=
  rfl
@[simp] theorem State.updSlot_now (s : State) (i : LocalHead) (f : DriveSlot → DriveSlot) :
    (s.updSlot i f).now = s.now :=
  rfl
@[simp] theorem State.updSlot_ttu (s : State) (i : LocalHead) (f : DriveSlot → DriveSlot) :
    (s.updSlot i f).ttu = s.ttu :=
  rfl
@[simp] theorem State.updSlot_heads (s : State) (i : LocalHead) (f : DriveSlot → DriveSlot) :
    (s.updSlot i f).heads = s.heads :=
  rfl
@[simp] theorem State.updSlot_rq (s : State) (i : LocalHead) (f : DriveSlot → DriveSlot) :
    (s.updSlot i f).rq = s.rq :=
  rfl
@[simp] theorem State.updSlot_sdu (s : State) (i : LocalHead) (f : DriveSlot → DriveSlot) :
    (s.updSlot i f).sdu = s.sdu :=
  rfl
@[simp] theorem State.updSlot_dlc (s : State) (i : LocalHead) (f : DriveSlot → DriveSlot) :
    (s.updSlot i f).dlc = { s.dlc with slots := s.dlc.slots.upd i f } :=
  rfl
@[simp] theorem State.updSlot_vu (s : State) (i : LocalHead) (f : DriveSlot → DriveSlot) :
    (s.updSlot i f).vu = s.vu :=
  rfl
@[simp] theorem State.updSlot_lbi (s : State) (i : LocalHead) (f : DriveSlot → DriveSlot) :
    (s.updSlot i f).lbi = s.lbi :=
  rfl
@[simp] theorem State.updSlot_sc (s : State) (i : LocalHead) (f : DriveSlot → DriveSlot) :
    (s.updSlot i f).sc = s.sc :=
  rfl
@[simp] theorem State.updSlot_counters (s : State) (i : LocalHead) (f : DriveSlot → DriveSlot) :
    (s.updSlot i f).counters = s.counters :=
  rfl
@[simp] theorem State.updSlot_headCounters (s : State) (i : LocalHead) (f : DriveSlot → DriveSlot) :
    (s.updSlot i f).headCounters = s.headCounters :=
  rfl

/-! ### updLearned -/

@[simp] theorem State.updLearned_pending (s : State) (i : LocalHead) (f : VerdictSlot → VerdictSlot) :
    (s.updLearned i f).pending = s.pending :=
  rfl
@[simp] theorem State.updLearned_now (s : State) (i : LocalHead) (f : VerdictSlot → VerdictSlot) :
    (s.updLearned i f).now = s.now :=
  rfl
@[simp] theorem State.updLearned_ttu (s : State) (i : LocalHead) (f : VerdictSlot → VerdictSlot) :
    (s.updLearned i f).ttu = s.ttu :=
  rfl
@[simp] theorem State.updLearned_heads (s : State) (i : LocalHead) (f : VerdictSlot → VerdictSlot) :
    (s.updLearned i f).heads = s.heads :=
  rfl
@[simp] theorem State.updLearned_rq (s : State) (i : LocalHead) (f : VerdictSlot → VerdictSlot) :
    (s.updLearned i f).rq = s.rq :=
  rfl
@[simp] theorem State.updLearned_sdu (s : State) (i : LocalHead) (f : VerdictSlot → VerdictSlot) :
    (s.updLearned i f).sdu = s.sdu :=
  rfl
@[simp] theorem State.updLearned_dlc (s : State) (i : LocalHead) (f : VerdictSlot → VerdictSlot) :
    (s.updLearned i f).dlc = s.dlc :=
  rfl
@[simp] theorem State.updLearned_vu (s : State) (i : LocalHead) (f : VerdictSlot → VerdictSlot) :
    (s.updLearned i f).vu = { s.vu with slots := s.vu.slots.upd i f } :=
  rfl
@[simp] theorem State.updLearned_lbi (s : State) (i : LocalHead) (f : VerdictSlot → VerdictSlot) :
    (s.updLearned i f).lbi = s.lbi :=
  rfl
@[simp] theorem State.updLearned_sc (s : State) (i : LocalHead) (f : VerdictSlot → VerdictSlot) :
    (s.updLearned i f).sc = s.sc :=
  rfl
@[simp] theorem State.updLearned_counters (s : State) (i : LocalHead) (f : VerdictSlot → VerdictSlot) :
    (s.updLearned i f).counters = s.counters :=
  rfl
@[simp] theorem State.updLearned_headCounters (s : State) (i : LocalHead) (f : VerdictSlot → VerdictSlot) :
    (s.updLearned i f).headCounters = s.headCounters :=
  rfl

/-! ### updCounters -/

@[simp] theorem State.updCounters_pending (s : State) (i : LocalHead) (f : HeadCounters → HeadCounters) :
    (s.updCounters i f).pending = s.pending :=
  rfl
@[simp] theorem State.updCounters_now (s : State) (i : LocalHead) (f : HeadCounters → HeadCounters) :
    (s.updCounters i f).now = s.now :=
  rfl
@[simp] theorem State.updCounters_ttu (s : State) (i : LocalHead) (f : HeadCounters → HeadCounters) :
    (s.updCounters i f).ttu = s.ttu :=
  rfl
@[simp] theorem State.updCounters_heads (s : State) (i : LocalHead) (f : HeadCounters → HeadCounters) :
    (s.updCounters i f).heads = s.heads :=
  rfl
@[simp] theorem State.updCounters_rq (s : State) (i : LocalHead) (f : HeadCounters → HeadCounters) :
    (s.updCounters i f).rq = s.rq :=
  rfl
@[simp] theorem State.updCounters_sdu (s : State) (i : LocalHead) (f : HeadCounters → HeadCounters) :
    (s.updCounters i f).sdu = s.sdu :=
  rfl
@[simp] theorem State.updCounters_dlc (s : State) (i : LocalHead) (f : HeadCounters → HeadCounters) :
    (s.updCounters i f).dlc = s.dlc :=
  rfl
@[simp] theorem State.updCounters_vu (s : State) (i : LocalHead) (f : HeadCounters → HeadCounters) :
    (s.updCounters i f).vu = s.vu :=
  rfl
@[simp] theorem State.updCounters_lbi (s : State) (i : LocalHead) (f : HeadCounters → HeadCounters) :
    (s.updCounters i f).lbi = s.lbi :=
  rfl
@[simp] theorem State.updCounters_sc (s : State) (i : LocalHead) (f : HeadCounters → HeadCounters) :
    (s.updCounters i f).sc = s.sc :=
  rfl
@[simp] theorem State.updCounters_counters (s : State) (i : LocalHead) (f : HeadCounters → HeadCounters) :
    (s.updCounters i f).counters = s.counters :=
  rfl
@[simp] theorem State.updCounters_headCounters (s : State) (i : LocalHead) (f : HeadCounters → HeadCounters) :
    (s.updCounters i f).headCounters = s.headCounters.upd i f :=
  rfl

/-! ### count -/

@[simp] theorem State.count_pending (s : State) (f : Counters → Counters) : (s.count f).pending = s.pending :=
  rfl
@[simp] theorem State.count_now (s : State) (f : Counters → Counters) : (s.count f).now = s.now :=
  rfl
@[simp] theorem State.count_ttu (s : State) (f : Counters → Counters) : (s.count f).ttu = s.ttu :=
  rfl
@[simp] theorem State.count_heads (s : State) (f : Counters → Counters) : (s.count f).heads = s.heads :=
  rfl
@[simp] theorem State.count_rq (s : State) (f : Counters → Counters) : (s.count f).rq = s.rq :=
  rfl
@[simp] theorem State.count_sdu (s : State) (f : Counters → Counters) : (s.count f).sdu = s.sdu :=
  rfl
@[simp] theorem State.count_dlc (s : State) (f : Counters → Counters) : (s.count f).dlc = s.dlc :=
  rfl
@[simp] theorem State.count_vu (s : State) (f : Counters → Counters) : (s.count f).vu = s.vu :=
  rfl
@[simp] theorem State.count_lbi (s : State) (f : Counters → Counters) : (s.count f).lbi = s.lbi :=
  rfl
@[simp] theorem State.count_sc (s : State) (f : Counters → Counters) : (s.count f).sc = s.sc :=
  rfl
@[simp] theorem State.count_counters (s : State) (f : Counters → Counters) : (s.count f).counters = f s.counters :=
  rfl
@[simp] theorem State.count_headCounters (s : State) (f : Counters → Counters) :
    (s.count f).headCounters = s.headCounters :=
  rfl

/-! ### setLatched -/

@[simp] theorem State.setLatched_pending (s : State) (n : Notice) : (s.setLatched n).pending = s.pending :=
  rfl
@[simp] theorem State.setLatched_now (s : State) (n : Notice) : (s.setLatched n).now = s.now :=
  rfl
@[simp] theorem State.setLatched_ttu (s : State) (n : Notice) : (s.setLatched n).ttu = s.ttu :=
  rfl
@[simp] theorem State.setLatched_heads (s : State) (n : Notice) : (s.setLatched n).heads = s.heads :=
  rfl
@[simp] theorem State.setLatched_rq (s : State) (n : Notice) : (s.setLatched n).rq = s.rq :=
  rfl
@[simp] theorem State.setLatched_sdu (s : State) (n : Notice) : (s.setLatched n).sdu = s.sdu :=
  rfl
@[simp] theorem State.setLatched_dlc (s : State) (n : Notice) : (s.setLatched n).dlc = s.dlc :=
  rfl
@[simp] theorem State.setLatched_vu (s : State) (n : Notice) : (s.setLatched n).vu = s.vu :=
  rfl
@[simp] theorem State.setLatched_lbi (s : State) (n : Notice) : (s.setLatched n).lbi = s.lbi :=
  rfl
@[simp] theorem State.setLatched_sc (s : State) (n : Notice) :
    (s.setLatched n).sc = { s.sc with latched := s.sc.latched ||| oneBit n.bit } :=
  rfl
@[simp] theorem State.setLatched_counters (s : State) (n : Notice) : (s.setLatched n).counters = s.counters :=
  rfl
@[simp] theorem State.setLatched_headCounters (s : State) (n : Notice) :
    (s.setLatched n).headCounters = s.headCounters :=
  rfl

/-! ### nextAge -/

@[simp] theorem State.nextAge_pending (s : State) : (s.nextAge).pending = s.pending :=
  rfl
@[simp] theorem State.nextAge_now (s : State) : (s.nextAge).now = s.now :=
  rfl
@[simp] theorem State.nextAge_ttu (s : State) : (s.nextAge).ttu = s.ttu :=
  rfl
@[simp] theorem State.nextAge_heads (s : State) : (s.nextAge).heads = s.heads :=
  rfl
@[simp] theorem State.nextAge_rq (s : State) : (s.nextAge).rq = s.rq :=
  rfl
@[simp] theorem State.nextAge_sdu (s : State) : (s.nextAge).sdu = s.sdu :=
  rfl
@[simp] theorem State.nextAge_dlc (s : State) : (s.nextAge).dlc = s.dlc :=
  rfl
@[simp] theorem State.nextAge_vu (s : State) : (s.nextAge).vu = s.vu :=
  rfl
@[simp] theorem State.nextAge_lbi (s : State) : (s.nextAge).lbi = { s.lbi with nextAge := s.lbi.nextAge + 1 } :=
  rfl
@[simp] theorem State.nextAge_sc (s : State) : (s.nextAge).sc = s.sc :=
  rfl
@[simp] theorem State.nextAge_counters (s : State) : (s.nextAge).counters = s.counters :=
  rfl
@[simp] theorem State.nextAge_headCounters (s : State) : (s.nextAge).headCounters = s.headCounters :=
  rfl

/-! ### setNow -/

@[simp] theorem State.setNow_pending (s : State) (t : Nat) : (s.setNow t).pending = s.pending :=
  rfl
@[simp] theorem State.setNow_now (s : State) (t : Nat) : (s.setNow t).now = t :=
  rfl
@[simp] theorem State.setNow_ttu (s : State) (t : Nat) : (s.setNow t).ttu = s.ttu :=
  rfl
@[simp] theorem State.setNow_heads (s : State) (t : Nat) : (s.setNow t).heads = s.heads :=
  rfl
@[simp] theorem State.setNow_rq (s : State) (t : Nat) : (s.setNow t).rq = s.rq :=
  rfl
@[simp] theorem State.setNow_sdu (s : State) (t : Nat) : (s.setNow t).sdu = s.sdu :=
  rfl
@[simp] theorem State.setNow_dlc (s : State) (t : Nat) : (s.setNow t).dlc = s.dlc :=
  rfl
@[simp] theorem State.setNow_vu (s : State) (t : Nat) : (s.setNow t).vu = s.vu :=
  rfl
@[simp] theorem State.setNow_lbi (s : State) (t : Nat) : (s.setNow t).lbi = s.lbi :=
  rfl
@[simp] theorem State.setNow_sc (s : State) (t : Nat) : (s.setNow t).sc = s.sc :=
  rfl
@[simp] theorem State.setNow_counters (s : State) (t : Nat) : (s.setNow t).counters = s.counters :=
  rfl
@[simp] theorem State.setNow_headCounters (s : State) (t : Nat) : (s.setNow t).headCounters = s.headCounters :=
  rfl

/-! ### setDir -/

@[simp] theorem State.setDir_pending (s : State) (d : Direction) : (s.setDir d).pending = s.pending :=
  rfl
@[simp] theorem State.setDir_now (s : State) (d : Direction) : (s.setDir d).now = s.now :=
  rfl
@[simp] theorem State.setDir_ttu (s : State) (d : Direction) : (s.setDir d).ttu = { s.ttu with dir := d } :=
  rfl
@[simp] theorem State.setDir_heads (s : State) (d : Direction) : (s.setDir d).heads = s.heads :=
  rfl
@[simp] theorem State.setDir_rq (s : State) (d : Direction) : (s.setDir d).rq = s.rq :=
  rfl
@[simp] theorem State.setDir_sdu (s : State) (d : Direction) : (s.setDir d).sdu = s.sdu :=
  rfl
@[simp] theorem State.setDir_dlc (s : State) (d : Direction) : (s.setDir d).dlc = s.dlc :=
  rfl
@[simp] theorem State.setDir_vu (s : State) (d : Direction) : (s.setDir d).vu = s.vu :=
  rfl
@[simp] theorem State.setDir_lbi (s : State) (d : Direction) : (s.setDir d).lbi = s.lbi :=
  rfl
@[simp] theorem State.setDir_sc (s : State) (d : Direction) : (s.setDir d).sc = s.sc :=
  rfl
@[simp] theorem State.setDir_counters (s : State) (d : Direction) : (s.setDir d).counters = s.counters :=
  rfl
@[simp] theorem State.setDir_headCounters (s : State) (d : Direction) : (s.setDir d).headCounters = s.headCounters :=
  rfl

/-! ### setMode -/

@[simp] theorem State.setMode_pending (s : State) (m : StationMode) : (s.setMode m).pending = s.pending :=
  rfl
@[simp] theorem State.setMode_now (s : State) (m : StationMode) : (s.setMode m).now = s.now :=
  rfl
@[simp] theorem State.setMode_ttu (s : State) (m : StationMode) : (s.setMode m).ttu = s.ttu :=
  rfl
@[simp] theorem State.setMode_heads (s : State) (m : StationMode) : (s.setMode m).heads = s.heads :=
  rfl
@[simp] theorem State.setMode_rq (s : State) (m : StationMode) : (s.setMode m).rq = s.rq :=
  rfl
@[simp] theorem State.setMode_sdu (s : State) (m : StationMode) : (s.setMode m).sdu = s.sdu :=
  rfl
@[simp] theorem State.setMode_dlc (s : State) (m : StationMode) : (s.setMode m).dlc = s.dlc :=
  rfl
@[simp] theorem State.setMode_vu (s : State) (m : StationMode) : (s.setMode m).vu = s.vu :=
  rfl
@[simp] theorem State.setMode_lbi (s : State) (m : StationMode) : (s.setMode m).lbi = s.lbi :=
  rfl
@[simp] theorem State.setMode_sc (s : State) (m : StationMode) : (s.setMode m).sc = { s.sc with mode := m } :=
  rfl
@[simp] theorem State.setMode_counters (s : State) (m : StationMode) : (s.setMode m).counters = s.counters :=
  rfl
@[simp] theorem State.setMode_headCounters (s : State) (m : StationMode) :
    (s.setMode m).headCounters = s.headCounters :=
  rfl

/-! ### frameEnd -/

@[simp] theorem State.frameEnd_pending (s : State) : (s.frameEnd).pending = s.pending :=
  rfl
@[simp] theorem State.frameEnd_now (s : State) : (s.frameEnd).now = s.now :=
  rfl
@[simp] theorem State.frameEnd_ttu (s : State) : (s.frameEnd).ttu = s.ttu :=
  rfl
@[simp] theorem State.frameEnd_heads (s : State) : (s.frameEnd).heads = s.heads :=
  rfl
@[simp] theorem State.frameEnd_rq (s : State) : (s.frameEnd).rq = s.rq :=
  rfl
@[simp] theorem State.frameEnd_sdu (s : State) : (s.frameEnd).sdu = s.sdu :=
  rfl
@[simp] theorem State.frameEnd_dlc (s : State) : (s.frameEnd).dlc = s.dlc :=
  rfl
@[simp] theorem State.frameEnd_vu (s : State) : (s.frameEnd).vu = s.vu :=
  rfl
@[simp] theorem State.frameEnd_lbi (s : State) :
    (s.frameEnd).lbi = { s.lbi with receive := .idle, errorCounted := false } :=
  rfl
@[simp] theorem State.frameEnd_sc (s : State) : (s.frameEnd).sc = s.sc :=
  rfl
@[simp] theorem State.frameEnd_counters (s : State) : (s.frameEnd).counters = s.counters :=
  rfl
@[simp] theorem State.frameEnd_headCounters (s : State) : (s.frameEnd).headCounters = s.headCounters :=
  rfl

/-! ### detachCycle -/

@[simp] theorem State.detachCycle_pending (s : State) (i : LocalHead) : (s.detachCycle i).pending = s.pending :=
  rfl
@[simp] theorem State.detachCycle_now (s : State) (i : LocalHead) : (s.detachCycle i).now = s.now :=
  rfl
@[simp] theorem State.detachCycle_ttu (s : State) (i : LocalHead) : (s.detachCycle i).ttu = s.ttu :=
  rfl
@[simp] theorem State.detachCycle_heads (s : State) (i : LocalHead) : (s.detachCycle i).heads = s.heads :=
  rfl
@[simp] theorem State.detachCycle_rq (s : State) (i : LocalHead) : (s.detachCycle i).rq = s.rq :=
  rfl
@[simp] theorem State.detachCycle_sdu (s : State) (i : LocalHead) : (s.detachCycle i).sdu = s.sdu :=
  rfl
@[simp] theorem State.detachCycle_vu (s : State) (i : LocalHead) : (s.detachCycle i).vu = s.vu :=
  rfl
@[simp] theorem State.detachCycle_lbi (s : State) (i : LocalHead) : (s.detachCycle i).lbi = s.lbi :=
  rfl
@[simp] theorem State.detachCycle_sc (s : State) (i : LocalHead) : (s.detachCycle i).sc = s.sc :=
  rfl
@[simp] theorem State.detachCycle_counters (s : State) (i : LocalHead) : (s.detachCycle i).counters = s.counters :=
  rfl
@[simp] theorem State.detachCycle_headCounters (s : State) (i : LocalHead) : (s.detachCycle i).headCounters = s.headCounters :=
  rfl
@[simp] theorem State.detachCycle_slots (s : State) (i : LocalHead) : (s.detachCycle i).dlc.slots = s.dlc.slots :=
  rfl

/-! ### One head after a change at a head -/

theorem State.head_updHead_same (s : State) (i : LocalHead) (f : Head → Head) : (s.updHead i f).head i = f (s.head i) :=
  PerHead.get_upd_same _ _ _

theorem State.head_updHead_other (s : State) {i j : LocalHead} (h : j ≠ i) (f : Head → Head) :
    (s.updHead i f).head j = s.head j :=
  PerHead.get_upd_other _ h _

theorem State.claim_updClaim_same (s : State) (i : LocalHead) (f : Claim → Claim) :
    (s.updClaim i f).claim i = f (s.claim i) :=
  PerHead.get_upd_same _ _ _

theorem State.claim_updClaim_other (s : State) {i j : LocalHead} (h : j ≠ i) (f : Claim → Claim) :
    (s.updClaim i f).claim j = s.claim j :=
  PerHead.get_upd_other _ h _

theorem State.slot_updSlot_same (s : State) (i : LocalHead) (f : DriveSlot → DriveSlot) :
    (s.updSlot i f).slot i = f (s.slot i) :=
  PerHead.get_upd_same _ _ _

theorem State.slot_updSlot_other (s : State) {i j : LocalHead} (h : j ≠ i) (f : DriveSlot → DriveSlot) :
    (s.updSlot i f).slot j = s.slot j :=
  PerHead.get_upd_other _ h _

theorem State.learned_updLearned_same (s : State) (i : LocalHead) (f : VerdictSlot → VerdictSlot) :
    (s.updLearned i f).learned i = f (s.learned i) :=
  PerHead.get_upd_same _ _ _

theorem State.learned_updLearned_other (s : State) {i j : LocalHead} (h : j ≠ i) (f : VerdictSlot → VerdictSlot) :
    (s.updLearned i f).learned j = s.learned j :=
  PerHead.get_upd_other _ h _

end Sys2Proof.Machine
end

