-- ==== Sys2Proof/Laws/Frame.lean ====
section
/-!
SUPPORT. What changes only some pieces of the state: the rules for putting such facts together, and one lemma for each
update and each shared operation of Ops.
-/
namespace Sys2Proof.Machine

/-! ## Putting frames together -/

theorem Piece.same_refl (s : State) (p : Piece) : p.same s s := by
  cases p <;> simp [Piece.same]

theorem Piece.same_trans {s t u : State} {p : Piece} (h₁ : p.same s t) (h₂ : p.same t u) : p.same s u := by
  cases p <;> simp_all [Piece.same]

theorem ChangesOnly.refl (ps : List Piece) (s : State) : ChangesOnly ps s s :=
  fun p => Or.inr (Piece.same_refl s p)

theorem ChangesOnly.mono {ps qs : List Piece} {s t : State} (h : ChangesOnly ps s t) (hs : ps ⊆ qs) :
    ChangesOnly qs s t :=
  fun p => (h p).imp (fun m => hs m) id

/-- As `mono`, for lists whose members can be compared by evaluation. -/
theorem ChangesOnly.widen {ps qs : List Piece} {s t : State} (h : ChangesOnly ps s t)
    (hs : (ps.all fun p => qs.contains p) = true) : ChangesOnly qs s t :=
  h.mono fun p hp => by simpa using List.all_eq_true.1 hs p hp

theorem ChangesOnly.comp {ps qs : List Piece} {s t u : State} (h₁ : ChangesOnly ps s t) (h₂ : ChangesOnly qs t u) :
    ChangesOnly (ps ++ qs) s u := by
  intro p
  rcases h₁ p with m | e
  · exact Or.inl (List.mem_append_left _ m)
  · rcases h₂ p with m' | e'
    · exact Or.inl (List.mem_append_right _ m')
    · exact Or.inr (Piece.same_trans e e')

theorem ChangesOnly.trans {ps : List Piece} {s t u : State} (h₁ : ChangesOnly ps s t) (h₂ : ChangesOnly ps t u) :
    ChangesOnly ps s u :=
  (h₁.comp h₂).mono (by simp)

/-- A piece that is not in the list is the same after as before. -/
theorem ChangesOnly.keeps {ps : List Piece} {s t : State} (h : ChangesOnly ps s t) (p : Piece) (hp : p ∉ ps) :
    p.same s t :=
  (h p).resolve_left hp

theorem ChangesOnly.ite {ps : List Piece} {c : Prop} [Decidable c] {s t u : State} (h₁ : c → ChangesOnly ps s t)
    (h₂ : ¬c → ChangesOnly ps s u) : ChangesOnly ps s (if c then t else u) := by
  split
  · exact h₁ ‹_›
  · exact h₂ ‹_›

/-- An action taken at each owned head in turn. -/
theorem ChangesOnly.eachOwned {ps : List Piece} (s : State) {act : LocalHead → State → State}
    (h : ∀ i t, ChangesOnly ps t (act i t)) : ChangesOnly ps s (s.eachOwned act) := by
  unfold State.eachOwned
  generalize s.owned = l
  induction l generalizing s with
  | nil => exact ChangesOnly.refl _ _
  | cons i l ih => exact (h i s).trans (ih _)

/-! ## Updates -/

theorem updHead_only (s : State) (i : LocalHead) (f : Head → Head) : ChangesOnly [.head i] s (s.updHead i f) := by
  intro p
  cases p <;> simp [Piece.same, State.claim, State.slot, State.learned]
  next j => by_cases h : j = i <;> simp [h, State.head_updHead_other]

theorem updClaim_only (s : State) (i : LocalHead) (f : Claim → Claim) : ChangesOnly [.claim i] s (s.updClaim i f) := by
  intro p
  cases p <;> simp [Piece.same, State.head, State.slot, State.learned]
  next j => by_cases h : j = i <;> simp [h, State.claim_updClaim_other]

theorem updSlot_only (s : State) (i : LocalHead) (f : DriveSlot → DriveSlot) :
    ChangesOnly [.slot i] s (s.updSlot i f) := by
  intro p
  cases p <;> simp [Piece.same, State.head, State.claim, State.learned]
  next j => by_cases h : j = i <;> simp [h, State.slot_updSlot_other]

theorem updLearned_only (s : State) (i : LocalHead) (f : VerdictSlot → VerdictSlot) :
    ChangesOnly [.learned i] s (s.updLearned i f) := by
  intro p
  cases p <;> simp [Piece.same, State.head, State.claim, State.slot]
  next j => by_cases h : j = i <;> simp [h, State.learned_updLearned_other]

theorem updCounters_only (s : State) (i : LocalHead) (f : HeadCounters → HeadCounters) :
    ChangesOnly [.headCounts i] s (s.updCounters i f) := by
  intro p
  cases p <;> simp [Piece.same, State.head, State.claim, State.slot, State.learned]
  next j => by_cases h : j = i <;> simp [h, PerHead.get_upd]

theorem setLatched_only (s : State) (n : Notice) : ChangesOnly [.latched] s (s.setLatched n) := by
  intro p
  cases p <;> simp [Piece.same, State.head, State.claim, State.slot, State.learned]

theorem nextAge_only (s : State) : ChangesOnly [.queue] s s.nextAge := by
  intro p
  cases p <;> simp [Piece.same, State.head, State.claim, State.slot, State.learned]

theorem setNow_only (s : State) (t : Nat) : ChangesOnly [.now] s (s.setNow t) := by
  intro p
  cases p <;> simp [Piece.same, State.head, State.claim, State.slot, State.learned]

theorem setDir_only (s : State) (d : Direction) : ChangesOnly [.ttu] s (s.setDir d) := by
  intro p
  cases p <;> simp [Piece.same, State.head, State.claim, State.slot, State.learned]

theorem setMode_only (s : State) (m : StationMode) : ChangesOnly [.mode] s (s.setMode m) := by
  intro p
  cases p <;> simp [Piece.same, State.head, State.claim, State.slot, State.learned]

theorem frameEnd_only (s : State) : ChangesOnly [.receive] s s.frameEnd := by
  intro p
  cases p <;> simp [Piece.same, State.head, State.claim, State.slot, State.learned]

theorem flag_only (s : State) (i : LocalHead) (f : JarFlag) : ChangesOnly [.head i] s (s.flag i f) :=
  updHead_only s i _

theorem markJog_only (s : State) (i : LocalHead) : ChangesOnly [.head i] s (s.markJog i) :=
  ChangesOnly.ite (fun _ => flag_only s i _) (fun _ => ChangesOnly.refl _ _)

theorem endClaims_only (s : State) (i : LocalHead) : ChangesOnly [.head i] s (s.endClaims i) :=
  updHead_only s i _

theorem setPhase_only (s : State) (i : LocalHead) (p : Phase) : ChangesOnly [.head i] s (s.setPhase i p) :=
  updHead_only s i _

/-! ## The transmit queue -/

/-- The frame an arrival costs is the arriving frame itself, or a frame of a worse class (R163). -/
theorem lost_is_worse {e : TxEntry} {q : List TxEntry} {f : TxFrame} (h : (placeTx e q).2 = some f) :
    f = e.frame ∨ e.frame.cls < f.cls := by
  unfold placeTx at h
  split at h
  · simp at h
  · split at h
    · split at h
      · simp only [Option.some.injEq] at h
        subst h
        exact Or.inr ‹_›
      · simp only [Option.some.injEq] at h
        exact Or.inl h.symm
    · simp only [Option.some.injEq] at h
      exact Or.inl h.symm

theorem arrive_only (s : State) (e : TxEntry) : ChangesOnly [.queue, .txDrops] s (s.arrive e) := by
  intro p
  cases p <;> simp [Piece.same, State.arrive, State.head, State.claim, State.slot, State.learned]

theorem latchTxDrop_only (s : State) : ChangesOnly reporting s s.latchTxDrop := by
  unfold State.latchTxDrop
  split
  · exact ChangesOnly.refl _ _
  · dsimp only
    split
    · exact (setLatched_only s .txDrop).mono (by simp [reporting])
    · exact ((setLatched_only s .txDrop).comp ((nextAge_only _).comp (arrive_only _ _))).mono (by simp [reporting])

theorem claimRefused_only (s : State) (i : LocalHead) : ChangesOnly [.claim i] s (s.claimRefused i) :=
  ChangesOnly.ite (fun _ => updClaim_only s i _) (fun _ => updClaim_only s i _)

/-- What the SDU may change when it is told of the loss of a frame (R74). -/
def lossPieces (s : State) : TxFrame → List Piece
  | .drawClaim g _ _ => match s.localOf g with
    | some i => [.claim i]
    | none => []
  | .steamHold _ => [.renewal]
  | .drawEnd _ | .jarReport _ | .headState _ | .join _ | .notice _ | .counterReply _ _ _ _ => []

theorem takeLoss_only (s : State) (f : TxFrame) : ChangesOnly (lossPieces s f) s (s.takeLoss f) := by
  cases f <;> simp only [State.takeLoss, lossPieces] <;> try exact ChangesOnly.refl _ _
  · intro p
    cases p <;> simp [Piece.same, State.head, State.claim, State.slot, State.learned]
  · next g _ _ =>
    cases h : s.localOf g
    · exact ChangesOnly.refl _ _
    · exact claimRefused_only s _

theorem lossPieces_worse (s : State) {f : TxFrame} (h : 0 < f.cls) : lossPieces s f = [] := by
  cases f <;> simp_all [lossPieces, TxFrame.cls, TxFrame.kind, FrameKind.cls]

theorem localOf_of_same {s t : State} (h : Piece.resetting.same s t) (g : Nat) : t.localOf g = s.localOf g := by
  unfold State.localOf State.fh State.hc
  rw [h.2.2.2]

theorem lossPieces_of_same {s t : State} (h : Piece.resetting.same s t) (f : TxFrame) :
    lossPieces t f = lossPieces s f := by
  cases f <;> simp [lossPieces, localOf_of_same h]

/-- A frame that arrives changes the queue, and on a loss the drop count, the latched word, and what the SDU holds for the
frame where it is the arriving frame that is lost (R163, R74). -/
theorem enter_only (s : State) (e : TxEntry) : ChangesOnly (reporting ++ lossPieces s e.frame) s (s.enter e) := by
  unfold State.enter
  have ha := (arrive_only s e).mono (qs := reporting) (by simp [reporting])
  split
  · exact ha.mono (by simp)
  · next f hf =>
    have hd := ha.trans (latchTxDrop_only (s.arrive e))
    have hl := takeLoss_only ((s.arrive e).latchTxDrop) f
    rw [lossPieces_of_same (hd.keeps .resetting (by simp [reporting]))] at hl
    rcases lost_is_worse hf with rfl | hw
    · exact hd.comp hl
    · rw [lossPieces_worse s (by omega)] at hl
      exact (hd.comp hl).mono (by simp)

theorem handIn_only (s : State) (f : TxFrame) : ChangesOnly (reporting ++ lossPieces s f) s (s.handIn f) := by
  have h := enter_only s.nextAge (s.newEntry f)
  rw [lossPieces_of_same ((nextAge_only s).keeps .resetting (by simp))] at h
  exact ((nextAge_only s).comp h).mono (by simp [reporting, State.newEntry])

/-- Handing in a frame whose loss the SDU does not take changes no more than a report does. -/
theorem handIn_reporting (s : State) {f : TxFrame} (h : lossPieces s f = []) : ChangesOnly reporting s (s.handIn f) := by
  have := handIn_only s f
  rw [h] at this
  exact this.mono (by simp)

/-! ## Notices -/

theorem requestNotice_only (s : State) : ChangesOnly reporting s s.requestNotice :=
  ChangesOnly.ite (fun _ => ChangesOnly.refl _ _) (fun _ => handIn_reporting s rfl)

theorem latch_only (s : State) (n : Notice) : ChangesOnly reporting s (s.latch n) := by
  have h := (setLatched_only s n).mono (qs := reporting) (by simp [reporting])
  unfold State.latch
  split
  · exact ChangesOnly.refl _ _
  · split
    · exact h
    · exact h.trans (requestNotice_only _)

theorem relatch_only (w : Word) (s : State) (n : Notice) : ChangesOnly reporting s (State.relatch w s n) :=
  ChangesOnly.ite (fun _ => latch_only s n) (fun _ => ChangesOnly.refl _ _)

theorem clearNotices_only (s : State) (w : Word) : ChangesOnly reporting s (s.clearNotices w) := by
  unfold State.clearNotices
  simp only [List.foldl_cons, List.foldl_nil]
  refine ChangesOnly.trans (t := { s with sc := { s.sc with latched := s.sc.latched &&& ~~~w } }) ?_ ?_
  · intro p
    cases p <;> simp [reporting, Piece.same, State.head, State.claim, State.slot, State.learned]
  · exact (((relatch_only _ _ _).trans (relatch_only _ _ _)).trans (relatch_only _ _ _)).trans (relatch_only _ _ _)

theorem changeMask_only (s : State) (m : Word) : ChangesOnly (.mask :: reporting) s (s.changeMask m) := by
  have h : ChangesOnly [.mask] s { s with sc := { s.sc with mask := m } } := by
    intro p
    cases p <;> simp [Piece.same, State.head, State.claim, State.slot, State.learned]
  unfold State.changeMask
  dsimp only
  split
  · exact h.mono (by simp)
  · exact (h.comp (requestNotice_only _)).mono (by simp)

/-! ## Claims -/

theorem removeClaimFrame_only (s : State) (i : LocalHead) : ChangesOnly [.queue] s (s.removeClaimFrame i) := by
  intro p
  cases p <;> simp [Piece.same, State.removeClaimFrame, State.head, State.claim, State.slot, State.learned]

theorem withdrawClaim_only (s : State) (i : LocalHead) :
    ChangesOnly [.queue, .claim i, .head i] s (s.withdrawClaim i) := by
  unfold State.withdrawClaim
  split
  · exact ChangesOnly.refl _ _
  · exact ChangesOnly.refl _ _
  · exact ((removeClaimFrame_only s i).comp ((updClaim_only _ i _).comp (endClaims_only _ i))).mono (by simp)
  · exact ((updClaim_only s i _).comp (endClaims_only _ i)).mono (by simp)

/-! ## Drive requests -/

theorem request_only (s : State) (i : LocalHead) (r : DriveRequest) : ChangesOnly [.slot i] s (s.request i r) :=
  updSlot_only s i _

theorem detach_only (s : State) (i : LocalHead) (ks : List DriveKind) : ChangesOnly [.link] s (s.detach i ks) := by
  intro p
  cases p <;> simp [Piece.same, State.detach, State.head, State.claim, State.slot, State.learned]

theorem detachCycle_only (s : State) (i : LocalHead) : ChangesOnly [.link] s (s.detachCycle i) := by
  intro p
  cases p <;> simp [Piece.same, State.detachCycle, State.head, State.claim, State.slot, State.learned]

theorem withdraw_only (s : State) (i : LocalHead) (k : DriveKind) : ChangesOnly [.slot i, .link] s (s.withdraw i k) :=
  ((updSlot_only s i _).comp (detach_only _ i _)).mono (by simp)

end Sys2Proof.Machine
end

