-- ==== Sys2Proof/Laws/Cycle.lean ====
section
/-!
SUPPORT. What the operations of the head cycle, of the draw table and of the valves change: one lemma for each.
-/
namespace Sys2Proof.Machine

/-! ## The bench -/

theorem sendHeadState_only (s : State) (i : LocalHead) (o : Occasion) : ChangesOnly reporting s (s.sendHeadState i o) :=
  handIn_reporting s rfl

theorem benchHead_only (s : State) (i : LocalHead) (r : BenchReason) :
    ChangesOnly (reporting ++ [.head i, .claim i]) s (s.benchHead i r) :=
  ChangesOnly.ite (fun _ => ChangesOnly.refl _ _) fun _ =>
    ((updHead_only s i _).comp ((withdrawClaim_only _ i).comp ((latch_only _ _).comp (sendHeadState_only _ i _)))).mono
      (by simp [reporting])

theorem driveFailed_only (s : State) (i : LocalHead) :
    ChangesOnly (reporting ++ [.head i, .claim i]) s (s.driveFailed i) := by
  unfold State.driveFailed
  dsimp only
  split
  · exact ((updHead_only s i _).comp ((latch_only _ _).comp (benchHead_only _ i _))).mono (by simp [reporting])
  · exact (updHead_only s i _).mono (by simp)

theorem driveSucceeded_only (s : State) (i : LocalHead) : ChangesOnly [.head i] s (s.driveSucceeded i) :=
  updHead_only s i _

/-! ## The end of a cycle -/

theorem reportJar_only (s : State) (i : LocalHead) (b : Bool) (r : JarReport) :
    ChangesOnly (.headCounts i :: reporting) s (s.reportJar i b r) :=
  ((updCounters_only s i _).comp (handIn_reporting _ rfl)).mono (by simp [reporting])

theorem setAwaiting_only (s : State) (l : List AwaitingEntry) :
    ChangesOnly [.awaiting] s { s with vu := { s.vu with awaiting := l } } := by
  intro p
  cases p <;> simp [Piece.same, State.head, State.claim, State.slot, State.learned]

theorem count_evictions_only (s : State) (n : Nat) :
    ChangesOnly [.verdictCounts] s (s.count fun c => { c with evictions := n }) := by
  intro p
  cases p <;> simp [Piece.same, State.head, State.claim, State.slot, State.learned]

/-- What the end of a capped jar's cycle can change in the Verdict Unit, with the report of an eviction (R122, R127). -/
def handOffPieces : List Piece :=
  [.awaiting, .verdictCounts] ++ reporting

theorem handOff_only (s : State) (e : AwaitingEntry) : ChangesOnly handOffPieces s (s.handOff e) :=
  ChangesOnly.ite (fun _ => (setAwaiting_only s _).mono (by simp [handOffPieces])) fun _ =>
    ((setAwaiting_only s _).comp ((count_evictions_only _ _).comp (latch_only _ _))).mono
      (by simp [handOffPieces, reporting])

theorem handOffJar_only (s : State) (i : LocalHead) (o : JarOutcome) :
    ChangesOnly handOffPieces s (s.handOffJar i o) :=
  ChangesOnly.ite (fun _ => handOff_only s _) (fun _ => ChangesOnly.refl _ _)

/-- What the event that ends a head's cycle changes (R118, R120, R122). -/
def finishPieces (i : LocalHead) : List Piece :=
  [.head i, .headCounts i, .link] ++ handOffPieces

theorem finish_only (s : State) (i : LocalHead) (o : JarOutcome) (torque angle : Nat) :
    ChangesOnly (finishPieces i) s (s.finish i o torque angle) :=
  ((reportJar_only s i _ _).comp ((handOffJar_only _ i o).comp ((updHead_only _ i _).comp
    (detachCycle_only _ i)))).mono
    (by simp [finishPieces, handOffPieces, reporting])

/-! ## The draw table, valves and claims -/

theorem setTable_only (s : State) (l : List DrawEntry) :
    ChangesOnly [.table] s { s with sdu := { s.sdu with table := l } } := by
  intro p
  cases p <;> simp [Piece.same, State.head, State.claim, State.slot, State.learned]

theorem removeEntry_only (s : State) (src : Address) (g : Nat) : ChangesOnly [.table] s (s.removeEntry src g) :=
  setTable_only s _

theorem writeEntry_only (s : State) (src : Address) (g f dwell : Nat) :
    ChangesOnly [.table] s (s.writeEntry src g f dwell) :=
  setTable_only s _

theorem count_claimsRefused_only (s : State) (n : Nat) :
    ChangesOnly [.claimsRefused] s (s.count fun c => { c with claimsRefused := n }) := by
  intro p
  cases p <;> simp [Piece.same, State.head, State.claim, State.slot, State.learned]

theorem closeValve_only (s : State) (i : LocalHead) : ChangesOnly (.head i :: reporting) s (s.closeValve i) :=
  ((updHead_only s i _).comp (handIn_reporting _ rfl)).mono (by simp)

theorem reportAdmission_only (s : State) (i : LocalHead) (dwell : Nat) (x : Bool) :
    ChangesOnly (.head i :: reporting) s (s.reportAdmission i dwell x) :=
  ChangesOnly.ite (fun _ => ((updHead_only s i _).comp (markJog_only _ i)).mono (by simp))
    fun _ => (handIn_reporting s rfl).mono (by simp)

theorem globalHead_of_same {s t : State} (h : Piece.resetting.same s t) (i : LocalHead) :
    t.globalHead i = s.globalHead i := by
  unfold State.globalHead State.fh
  rw [h.2.2.2]

/-- A loss of the claim of local head `i` concerns that head alone, where the station owns it. -/
theorem lossPieces_claim (s : State) (i : LocalHead) (u d : Nat) :
    lossPieces s (.drawClaim (s.globalHead i) u d) ⊆ [.claim i] := by
  unfold lossPieces
  cases h : s.localOf (s.globalHead i) with
  | none => simp [h]
  | some j =>
    have : j = i := by
      unfold State.localOf State.globalHead at h
      split at h
      · simp only [Option.some.injEq] at h
        rw [← h]
        simp
      · simp at h
    simp [h, this]

/-- What forming a claim for a head can change (R60, R70, R85). -/
def claimPieces (i : LocalHead) : List Piece :=
  [.head i, .claim i, .table, .claimsRefused] ++ reporting

theorem handInClaim_only (s : State) (i : LocalHead) (u d : Nat) :
    ChangesOnly (.claim i :: reporting) s (s.handIn (.drawClaim (s.globalHead i) u d)) :=
  (handIn_only s _).mono (by
    have := lossPieces_claim s i u d
    intro p hp
    rcases List.mem_append.1 hp with h | h
    · exact List.mem_cons_of_mem _ h
    · have := this h
      exact List.mem_cons.2 (Or.inl (by simpa using this)))

theorem announce_only (s : State) (i : LocalHead) (c : Claim) : ChangesOnly (claimPieces i) s (s.announce i c) := by
  unfold State.announce
  dsimp only
  split
  · split
    · have h := (writeEntry_only s s.addr (s.globalHead i) c.units c.dwell).comp
        ((updClaim_only _ i fun _ => { c with admittedLocally := true }).comp
          (reportAdmission_only _ i c.dwell c.extension))
      have h' := h.comp (handInClaim_only _ i c.units c.dwell)
      rw [globalHead_of_same (h.keeps .resetting (by simp [reporting])) i] at h'
      exact h'.mono (by simp [claimPieces, reporting])
    · exact ((updClaim_only s i _).comp ((count_claimsRefused_only _ _).comp (claimRefused_only _ i))).mono
        (by simp [claimPieces])
  · have h := updClaim_only s i fun _ => c
    have h' := h.comp (handInClaim_only _ i c.units c.dwell)
    rw [globalHead_of_same (h.keeps .resetting (by simp)) i] at h'
    exact h'.mono (by simp [claimPieces, reporting])

theorem formClaim_only (s : State) (i : LocalHead) : ChangesOnly (claimPieces i) s (s.formClaim i) := by
  unfold State.formClaim
  dsimp only
  split
  · exact ((updClaim_only s i _).comp (endClaims_only _ i)).mono (by simp [claimPieces])
  · split
    · exact ((flag_only s i _).comp (announce_only _ i _)).mono (by simp [claimPieces])
    · exact announce_only s i _

theorem recheckClaim_only (i : LocalHead) (s : State) :
    ChangesOnly [.queue, .claim i, .head i] s (State.recheckClaim i s) :=
  ChangesOnly.ite (fun _ => withdrawClaim_only s i) (fun _ => ChangesOnly.refl _ _)

theorem recheckClaims_only (s : State) :
    ChangesOnly (.queue :: (ofHeads .claim ++ ofHeads .head)) s s.recheckClaims :=
  ChangesOnly.eachOwned s fun i t => (recheckClaim_only i t).mono (by fin_cases i <;> simp [ofHeads])

/-! ## Abort -/

/-- What the abort of a head changes (R25, R73, R106). -/
def abortPieces (i : LocalHead) : List Piece :=
  [.claim i, .slot i, .link] ++ finishPieces i

theorem abortActions_only (s : State) (i : LocalHead) :
    ChangesOnly ([.head i, .claim i, .slot i, .link] ++ reporting) s (s.abortActions i) := by
  have hw := (withdrawClaim_only s i).mono (qs := [.head i, .claim i, .slot i, .link] ++ reporting) (by simp [reporting])
  unfold State.abortActions
  dsimp only
  split
  · exact ChangesOnly.refl _ _
  · exact hw.trans ((withdraw_only _ i _).mono (by simp))
  · exact hw.trans ((withdraw_only _ i _).mono (by simp))
  · exact hw.trans ((withdraw_only _ i _).mono (by simp))
  · exact hw.trans ((withdraw_only _ i _).mono (by simp))
  · split
    · exact hw.trans (((closeValve_only _ i).comp (withdraw_only _ i _)).mono (by simp [reporting]))
    · exact hw.trans ((withdraw_only _ i _).mono (by simp))
  · exact hw.trans (((detach_only _ i _).comp (request_only _ i _)).mono (by simp))
  · exact hw.trans ((withdraw_only _ i _).mono (by simp))

theorem abortHead_only (i : LocalHead) (s : State) : ChangesOnly (abortPieces i) s (State.abortHead i s) :=
  ChangesOnly.ite (fun _ => ChangesOnly.refl _ _) fun _ =>
    ((flag_only s i _).comp ((markJog_only _ i).comp ((abortActions_only _ i).comp (finish_only _ i _ _ _)))).mono
      (by simp [abortPieces, finishPieces, handOffPieces, reporting])

/-- What an abort order can change (R25). -/
def abortAllPieces : List Piece :=
  ofHeads .head ++ ofHeads .headCounts ++ ofHeads .claim ++ ofHeads .slot ++ [.link] ++ handOffPieces

theorem abortAll_only (s : State) : ChangesOnly abortAllPieces s s.abortAll :=
  ChangesOnly.eachOwned s fun i t => (abortHead_only i t).mono
    (by fin_cases i <;> simp [abortAllPieces, abortPieces, finishPieces, handOffPieces, reporting, ofHeads])

end Sys2Proof.Machine
end

