-- ==== Sys2Proof/Laws/Turret.lean ====
section
/-!
SUPPORT. What the angle events, the counts and the zero mark change: one lemma for each.
-/
namespace Sys2Proof.Machine

/-! ## Updates of the turret and the queue of records -/

theorem setTtu_only (s : State) (t : Ttu) : ChangesOnly [.ttu] s { s with ttu := t } := by
  intro p
  cases p <;> simp [Piece.same, State.head, State.claim, State.slot, State.learned]

theorem takeRecords_only (s : State) (g : Nat) : ChangesOnly [.records] s (s.takeRecords g) := by
  intro p
  cases p <;> simp [Piece.same, State.takeRecords, State.head, State.claim, State.slot, State.learned]

theorem count_orphans_only (s : State) (f : Nat → Nat) :
    ChangesOnly [.recordCounts] s (s.count fun c => { c with orphans := f c.orphans }) := by
  intro p
  cases p <;> simp [Piece.same, State.head, State.claim, State.slot, State.learned]

theorem count_surplus_only (s : State) (f : Nat → Nat) :
    ChangesOnly [.recordCounts] s (s.count fun c => { c with surplus := f c.surplus }) := by
  intro p
  cases p <;> simp [Piece.same, State.head, State.claim, State.slot, State.learned]

theorem count_underruns_only (s : State) (f : Nat → Nat) :
    ChangesOnly [.recordCounts] s (s.count fun c => { c with underruns := f c.underruns }) := by
  intro p
  cases p <;> simp [Piece.same, State.head, State.claim, State.slot, State.learned]

/-! ## Angle events -/

/-- What an angle event of a head can change. -/
def anglePieces (i : LocalHead) : List Piece :=
  [.records, .recordCounts, .slot i, .link, .claim i, .table, .claimsRefused] ++ finishPieces i

theorem closeOut_only (s : State) (i : LocalHead) : ChangesOnly (anglePieces i) s (s.closeOut i) :=
  ((withdraw_only s i _).comp ((flag_only _ i _).comp ((markJog_only _ i).comp ((finish_only _ i _ _ _).comp
    (driveFailed_only _ i))))).mono (by simp [anglePieces, finishPieces, handOffPieces, reporting])

theorem underrun_only (s : State) : ChangesOnly (.recordCounts :: reporting) s s.underrun :=
  ((count_underruns_only s bump).comp (latch_only _ _)).mono (by simp)

theorem beginCycle_only (s : State) (i : LocalHead) (r : Option JarRecord) :
    ChangesOnly ([.recordCounts, .head i, .slot i] ++ reporting) s (s.beginCycle i r) := by
  unfold State.beginCycle
  dsimp only
  split
  · exact ((underrun_only s).comp ((updHead_only _ i _).comp (request_only _ i _))).mono (by simp [reporting])
  · exact ((updHead_only s i _).comp (request_only _ i _)).mono (by simp)

theorem idlePass_only (s : State) (i : LocalHead) (jar : Bool) : ChangesOnly (anglePieces i) s (s.idlePass i jar) := by
  have h := takeRecords_only s (s.globalHead i)
  unfold State.idlePass
  dsimp only
  split
  · exact (h.comp (count_orphans_only _ (bumpBy _))).mono (by simp [anglePieces])
  · split
    · exact (h.comp ((count_surplus_only _ (bumpBy _)).comp (reportJar_only _ i _ _))).mono
        (by simp [anglePieces, finishPieces, handOffPieces, reporting])
    · split
      · exact (h.comp ((count_surplus_only _ (bumpBy _)).comp (beginCycle_only _ i _))).mono
          (by simp [anglePieces, finishPieces, handOffPieces, reporting])
      · exact (h.comp ((count_surplus_only _ (bumpBy _)).comp (reportJar_only _ i _ _))).mono
          (by simp [anglePieces, finishPieces, handOffPieces, reporting])

theorem infeedPass_only (s : State) (i : LocalHead) (jar : Bool) :
    ChangesOnly (anglePieces i) s (s.infeedPass i jar) := by
  unfold State.infeedPass
  split
  · exact idlePass_only s i jar
  · exact (closeOut_only s i).trans (idlePass_only _ i jar)
  all_goals exact ChangesOnly.refl _ _

theorem capPick_only (s : State) (i : LocalHead) (cap : Bool) : ChangesOnly (anglePieces i) s (s.capPick i cap) :=
  ChangesOnly.ite
    (fun _ => ChangesOnly.ite
      (fun _ => ((markJog_only s i).comp (setPhase_only _ i _)).mono (by simp [anglePieces, finishPieces]))
      fun _ => ((markJog_only s i).comp ((flag_only _ i _).comp ((withdraw_only _ i _).comp (finish_only _ i _ _ _)))).mono
        (by simp [anglePieces, finishPieces, handOffPieces, reporting]))
    fun _ => ChangesOnly.refl _ _

theorem flushStart_only (s : State) (i : LocalHead) : ChangesOnly (anglePieces i) s (s.flushStart i) := by
  have h := ((markJog_only s i).comp (setPhase_only _ i .claiming)).mono (qs := anglePieces i)
    (by simp [anglePieces, finishPieces])
  unfold State.flushStart
  split
  · dsimp only
    split
    · exact h.trans ((endClaims_only _ i).mono (by simp [anglePieces, finishPieces]))
    · split
      · exact h.trans ((formClaim_only _ i).mono
          (by simp [anglePieces, claimPieces, finishPieces, handOffPieces, reporting]))
      · exact h
  · exact ChangesOnly.refl _ _

theorem seat_only (s : State) (i : LocalHead) : ChangesOnly (anglePieces i) s (s.seat i) := by
  have h := ((markJog_only s i).comp (withdrawClaim_only _ i)).mono (qs := anglePieces i)
    (by simp [anglePieces, finishPieces, handOffPieces, reporting])
  unfold State.seat
  split
  · dsimp only
    split
    · exact h.trans (((flag_only _ i _).comp ((closeValve_only _ i).comp (setPhase_only _ i _))).mono
        (by simp [anglePieces, finishPieces, handOffPieces, reporting]))
    · exact h.trans ((setPhase_only _ i _).mono (by simp [anglePieces, finishPieces]))
  · exact h.trans (((flag_only _ i _).comp (updHead_only _ i _)).mono (by simp [anglePieces, finishPieces]))
  all_goals exact ChangesOnly.refl _ _

theorem driveLate_only (s : State) (i : LocalHead) : ChangesOnly [.slot i, .head i] s (s.driveLate i) :=
  ((updSlot_only s i _).comp (flag_only _ i _)).mono (by simp)

theorem torqueStart_only (s : State) (i : LocalHead) : ChangesOnly (anglePieces i) s (s.torqueStart i) := by
  unfold State.torqueStart
  split
  · dsimp only
    split
    · exact ((markJog_only s i).comp ((request_only _ i _).comp (setPhase_only _ i _))).mono
        (by simp [anglePieces, finishPieces])
    · exact ((markJog_only s i).comp ((driveLate_only _ i).comp ((request_only _ i _).comp (setPhase_only _ i _)))).mono
        (by simp [anglePieces, finishPieces])
  · exact ChangesOnly.refl _ _

theorem release_only (s : State) (i : LocalHead) : ChangesOnly (anglePieces i) s (s.release i) := by
  unfold State.release
  split
  · dsimp only
    split
    · exact ((markJog_only s i).comp ((flag_only _ i _).comp ((request_only _ i _).comp (setPhase_only _ i _)))).mono
        (by simp [anglePieces, finishPieces])
    · exact ((markJog_only s i).comp ((request_only _ i _).comp (setPhase_only _ i _))).mono
        (by simp [anglePieces, finishPieces])
  · exact ChangesOnly.refl _ _

theorem takeAngle_only (s : State) (i : LocalHead) (jp cp : BitVec 4) (e : AngleEvent) :
    ChangesOnly (anglePieces i) s (s.takeAngle i jp cp e) := by
  cases e
  · exact infeedPass_only s i _
  · exact capPick_only s i _
  · exact flushStart_only s i
  · exact seat_only s i
  · exact torqueStart_only s i
  · exact release_only s i

theorem raiseEvent_only (jp cp : BitVec 4) (i : LocalHead) (s : State) :
    ChangesOnly (anglePieces i) s (State.raiseEvent jp cp i s) := by
  unfold State.raiseEvent
  split
  · exact takeAngle_only s i jp cp _
  · exact ChangesOnly.refl _ _

/-! ## Counts -/

/-- What a count can change (R2, R9, R12, R73). -/
def countPieces : List Piece :=
  [.ttu, .records, .recordCounts, .table, .claimsRefused] ++ abortAllPieces

theorem crossing_only (s : State) (jp cp : BitVec 4) : ChangesOnly countPieces s (s.crossing jp cp) := by
  have h : ∀ t, ChangesOnly countPieces t ((t.eachOwned (State.raiseEvent jp cp)).recheckClaims) := fun t =>
    (ChangesOnly.eachOwned t fun i u => (raiseEvent_only jp cp i u).mono
      (by fin_cases i <;> simp [countPieces, anglePieces, abortAllPieces, finishPieces, handOffPieces, reporting,
        ofHeads])).trans ((recheckClaims_only _).widen (by decide))
  unfold State.crossing
  dsimp only
  split
  · exact ((setTtu_only s _).mono (by simp [countPieces])).trans (h _)
  · exact h _

theorem forwardMove_only (s : State) (jp cp : BitVec 4) : ChangesOnly countPieces s (s.forwardMove jp cp) := by
  have h : ∀ t, ChangesOnly countPieces s { s with ttu := t } := fun t =>
    (setTtu_only s t).mono (by simp [countPieces])
  unfold State.forwardMove
  dsimp only
  split
  · exact (h _).trans (crossing_only _ jp cp)
  · exact h _

theorem forwardCount_only (s : State) (jp cp : BitVec 4) : ChangesOnly countPieces s (s.forwardCount jp cp) := by
  have h := (setDir_only s .forward).mono (qs := countPieces) (by simp [countPieces])
  unfold State.forwardCount
  dsimp only
  split
  · exact h.trans (forwardMove_only _ jp cp)
  · exact h

theorem beginReverse_only (s : State) (d : Direction) : ChangesOnly reporting s (s.beginReverse d) :=
  ChangesOnly.ite (fun _ => latch_only s _) (fun _ => ChangesOnly.refl _ _)

theorem reverseCount_only (s : State) : ChangesOnly (.ttu :: abortAllPieces) s s.reverseCount := by
  have h := (setDir_only s .reverse).mono (qs := .ttu :: abortAllPieces) (by simp)
  unfold State.reverseCount
  dsimp only
  split
  · exact h.trans (((setTtu_only _ _).comp ((abortAll_only _).comp (beginReverse_only _ _))).widen (by decide))
  · exact h.trans ((beginReverse_only _ _).widen (by decide))

theorem illegalStep_only (s : State) : ChangesOnly (.ttu :: abortAllPieces) s s.illegalStep := by
  unfold State.illegalStep
  dsimp only
  split
  · exact ((latch_only s _).comp ((abortAll_only _).comp (setTtu_only _ _))).widen (by decide)
  · exact (latch_only s _).widen (by decide)

theorem correctForward_only (jp cp : BitVec 4) (n : Nat) (s : State) :
    ChangesOnly countPieces s (State.correctForward jp cp n s) := by
  induction n generalizing s with
  | zero => exact ChangesOnly.refl _ _
  | succ n ih => exact (forwardMove_only s jp cp).trans (ih _)

theorem zeroMark_only (s : State) (jp cp : BitVec 4) : ChangesOnly countPieces s (s.zeroMark jp cp) := by
  have h : ∀ (u : State) t, ChangesOnly countPieces u { u with ttu := t } := fun u t =>
    (setTtu_only u t).mono (by simp [countPieces])
  unfold State.zeroMark
  split
  · exact h _ _
  · split
    · exact (((latch_only s _).comp (abortAll_only _)).widen (by decide)).trans (h _ _)
    · split
      · exact ChangesOnly.refl _ _
      · split
        · exact h _ _
        · exact correctForward_only jp cp _ s

theorem pitchTimeout_only (s : State) :
    ChangesOnly ([.ttu, .queue] ++ (ofHeads .claim ++ ofHeads .head)) s s.pitchTimeout :=
  ChangesOnly.ite (fun _ => ((setTtu_only s _).comp (recheckClaims_only _)).mono (by simp [ofHeads]))
    fun _ => ChangesOnly.refl _ _

theorem coldStop_only (s : State) : ChangesOnly (.ttu :: ofHeads .head) s s.coldStop :=
  ChangesOnly.ite
    (fun _ => ((setTtu_only s _).mono (by simp)).trans
      (ChangesOnly.eachOwned _ fun i t => (updHead_only t i _).mono (by fin_cases i <;> simp [ofHeads])))
    fun _ => ChangesOnly.refl _ _

end Sys2Proof.Machine
end

