-- ==== Sys2Proof/Laws/Blocks.lean ====
section
/-!
SUPPORT. What the steps of the Record Queue, the Steam Draw Unit, the Drive Link Controller, the Verdict Unit, Station
Control and the Line Bus Interface change: one lemma for each.
-/
namespace Sys2Proof.Machine

/-! ## Counters and fields -/

theorem count_lateRecords_only (s : State) :
    ChangesOnly [.recordCounts] s (s.count fun c => { c with lateRecords := bump c.lateRecords }) := by
  intro p
  cases p <;> simp [Piece.same, State.head, State.claim, State.slot, State.learned]

theorem count_duplicates_only (s : State) :
    ChangesOnly [.recordCounts] s (s.count fun c => { c with duplicates := bump c.duplicates }) := by
  intro p
  cases p <;> simp [Piece.same, State.head, State.claim, State.slot, State.learned]

theorem count_badRecords_only (s : State) :
    ChangesOnly [.recordCounts] s (s.count fun c => { c with badRecords := bump c.badRecords }) := by
  intro p
  cases p <;> simp [Piece.same, State.head, State.claim, State.slot, State.learned]

theorem count_overruns_only (s : State) :
    ChangesOnly [.recordCounts] s (s.count fun c => { c with overruns := bump c.overruns }) := by
  intro p
  cases p <;> simp [Piece.same, State.head, State.claim, State.slot, State.learned]

theorem count_badFrames_only (s : State) :
    ChangesOnly [.badFrames] s (s.count fun c => { c with badFrames := bump c.badFrames }) := by
  intro p
  cases p <;> simp [Piece.same, State.head, State.claim, State.slot, State.learned]

theorem count_lateVerdicts_only (s : State) :
    ChangesOnly [.verdictCounts] s (s.count fun c => { c with lateVerdicts := bump c.lateVerdicts }) := by
  intro p
  cases p <;> simp [Piece.same, State.head, State.claim, State.slot, State.learned]

theorem count_mismatches_only (s : State) :
    ChangesOnly [.verdictCounts] s (s.count fun c => { c with mismatches := bump c.mismatches }) := by
  intro p
  cases p <;> simp [Piece.same, State.head, State.claim, State.slot, State.learned]

theorem setRecords_only (s : State) (l : List JarRecord) :
    ChangesOnly [.records] s { s with rq := l } := by
  intro p
  cases p <;> simp [Piece.same, State.head, State.claim, State.slot, State.learned]

theorem setHold_only (s : State) (h : Option Nat) (o : HoldOrigin) :
    ChangesOnly [.hold] s { s with sdu := { s.sdu with hold := h, origin := o } } := by
  intro p
  cases p <;> simp [Piece.same, State.head, State.claim, State.slot, State.learned]

theorem stopHold_only (s : State) (h : Option Nat) :
    ChangesOnly [.hold] s { s with sdu := { s.sdu with hold := h } } := by
  intro p
  cases p <;> simp [Piece.same, State.head, State.claim, State.slot, State.learned]

theorem setRenewal_only (s : State) (r : Option Nat) :
    ChangesOnly [.renewal] s { s with sdu := { s.sdu with renewal := r } } := by
  intro p
  cases p <;> simp [Piece.same, State.head, State.claim, State.slot, State.learned]

theorem setStloInput_only (s : State) (l : StloLevel) (t : Option Nat) :
    ChangesOnly [.stloInput] s { s with sdu := { s.sdu with stloInput := l, stloSince := t } } := by
  intro p
  cases p <;> simp [Piece.same, State.head, State.claim, State.slot, State.learned]

theorem setStlo_only (s : State) (l : StloLevel) :
    ChangesOnly [.stlo] s { s with sdu := { s.sdu with stlo := l } } := by
  intro p
  cases p <;> simp [Piece.same, State.head, State.claim, State.slot, State.learned]

theorem setIsolated_only (s : State) (b : Bool) :
    ChangesOnly [.isolation] s { s with sdu := { s.sdu with isolated := b } } := by
  intro p
  cases p <;> simp [Piece.same, State.head, State.claim, State.slot, State.learned]

theorem setRelisten_only (s : State) (r : Option Nat) :
    ChangesOnly [.isolation] s { s with sdu := { s.sdu with relisten := r } } := by
  intro p
  cases p <;> simp [Piece.same, State.head, State.claim, State.slot, State.learned]

theorem endIsolated_only (s : State) (b : Bool) (r : Option Nat) :
    ChangesOnly [.isolation] s { s with sdu := { s.sdu with isolated := b, relisten := r } } := by
  intro p
  cases p <;> simp [Piece.same, State.head, State.claim, State.slot, State.learned]

theorem setCurrent_only (s : State) (t : Option Transaction) :
    ChangesOnly [.link] s { s with dlc := { s.dlc with current := t } } := by
  intro p
  cases p <;> simp [Piece.same, State.head, State.claim, State.slot, State.learned]

theorem setAwaitingRun_only (s : State) (l : List AwaitingEntry) (n : Nat) :
    ChangesOnly [.awaiting, .silentRun] s { s with vu := { s.vu with awaiting := l, noVerdictRun := n } } := by
  intro p
  cases p <;> simp [Piece.same, State.head, State.claim, State.slot, State.learned]

theorem setRun_only (s : State) (n : Nat) :
    ChangesOnly [.silentRun] s { s with vu := { s.vu with noVerdictRun := n } } := by
  intro p
  cases p <;> simp [Piece.same, State.head, State.claim, State.slot, State.learned]

theorem setJoinTimer_only (s : State) (t : Option Nat) :
    ChangesOnly [.joining] s { s with sc := { s.sc with joinTimer := t } } := by
  intro p
  cases p <;> simp [Piece.same, State.head, State.claim, State.slot, State.learned]

theorem setWindow_only (s : State) (w : JoinWindow) :
    ChangesOnly [.joining] s { s with sc := { s.sc with window := w } } := by
  intro p
  cases p <;> simp [Piece.same, State.head, State.claim, State.slot, State.learned]

theorem setRoster_only (s : State) (l : List RosterEntry) :
    ChangesOnly [.roster] s { s with sc := { s.sc with roster := l } } := by
  intro p
  cases p <;> simp [Piece.same, State.head, State.claim, State.slot, State.learned]

theorem setSetupParts_only (s : State) (u : SetupParts) :
    ChangesOnly [.setupParts] s { s with sc := { s.sc with setupParts := u } } := by
  intro p
  cases p <;> simp [Piece.same, State.head, State.claim, State.slot, State.learned]

theorem setProfiles_only (s : State) (u : PerProfile ProfileParts) :
    ChangesOnly [.profiles] s { s with sc := { s.sc with profiles := u } } := by
  intro p
  cases p <;> simp [Piece.same, State.head, State.claim, State.slot, State.learned]

theorem setConflict_only (s : State) (b : Bool) :
    ChangesOnly [.addressConflict] s { s with sc := { s.sc with addressConflict := b } } := by
  intro p
  cases p <;> simp [Piece.same, State.head, State.claim, State.slot, State.learned]

theorem setSilence_only (s : State) (t : Nat) :
    ChangesOnly [.silence] s { s with lbi := { s.lbi with silenceStart := t } } := by
  intro p
  cases p <;> simp [Piece.same, State.head, State.claim, State.slot, State.learned]

theorem setReceive_only (s : State) (r : ReceiveState) :
    ChangesOnly [.receive] s { s with lbi := { s.lbi with receive := r } } := by
  intro p
  cases p <;> simp [Piece.same, State.head, State.claim, State.slot, State.learned]

theorem setInFlight_only (s : State) (f : Option InFlight) :
    ChangesOnly [.inFlight] s { s with lbi := { s.lbi with inFlight := f } } := by
  intro p
  cases p <;> simp [Piece.same, State.head, State.claim, State.slot, State.learned]

theorem setErrorCounted_only (s : State) (b : Bool) :
    ChangesOnly [.receive] s { s with lbi := { s.lbi with errorCounted := b } } := by
  intro p
  cases p <;> simp [Piece.same, State.head, State.claim, State.slot, State.learned]

theorem setQueue_only (s : State) (q : List TxEntry) :
    ChangesOnly [.queue] s { s with lbi := { s.lbi with queue := q } } := by
  intro p
  cases p <;> simp [Piece.same, State.head, State.claim, State.slot, State.learned]

theorem takeInFlight_only (s : State) (q : List TxEntry) (f : Option InFlight) (r : ReceiveState) :
    ChangesOnly [.queue, .inFlight, .receive] s { s with lbi := { s.lbi with queue := q, inFlight := f, receive := r } } := by
  intro p
  cases p <;> simp [Piece.same, State.head, State.claim, State.slot, State.learned]

/-! ## Records -/

theorem appendRecord_only (s : State) (r : JarRecord) :
    ChangesOnly ([.records, .recordCounts] ++ reporting) s (s.appendRecord r) := by
  unfold State.appendRecord
  dsimp only
  split
  · exact (setRecords_only s _).mono (by simp)
  · exact ((setRecords_only s _).comp ((count_overruns_only _).comp ((latch_only _ _).comp (setRecords_only _ _)))).widen
      (by decide)

theorem queueRecord_only (s : State) (p : BitVec 64) :
    ChangesOnly ([.records, .recordCounts] ++ reporting) s (s.queueRecord p) :=
  ChangesOnly.ite (fun _ => (count_lateRecords_only s).mono (by simp)) fun _ =>
    ChangesOnly.ite (fun _ => (count_duplicates_only s).mono (by simp)) fun _ => appendRecord_only s _

theorem takeRecord_only (s : State) (src : Address) (p : BitVec 64) :
    ChangesOnly ([.records, .recordCounts] ++ reporting) s (s.takeRecord src p) :=
  ChangesOnly.ite (fun _ => ChangesOnly.refl _ _) fun _ =>
    ChangesOnly.ite (fun _ => (count_badRecords_only s).mono (by simp)) fun _ =>
      ChangesOnly.ite (fun _ => ChangesOnly.refl _ _) fun _ => queueRecord_only s p

/-! ## Steam -/

theorem sendHold_only (s : State) : ChangesOnly (.renewal :: reporting) s s.sendHold :=
  (handIn_only s _).mono (by simp [lossPieces, reporting])

theorem headEcho_only (s : State) (i : LocalHead) (p : BitVec 32) :
    ChangesOnly (claimPieces i) s (s.headEcho i p) := by
  unfold State.headEcho
  dsimp only
  split
  · exact (updClaim_only s i _).mono (by simp [claimPieces])
  · split
    · exact ((writeEntry_only s _ _ _ _).comp ((updClaim_only _ i _).comp (reportAdmission_only _ i _ _))).mono
        (by simp [claimPieces, reporting])
    · exact ((count_claimsRefused_only s _).comp (claimRefused_only _ i)).mono (by simp [claimPieces])

/-- What the echo of an own claim can change at any of the heads. -/
def anyClaimPieces : List Piece :=
  ofHeads .head ++ ofHeads .claim ++ [.table, .claimsRefused] ++ reporting

theorem claimPieces_sub (i : LocalHead) : claimPieces i ⊆ anyClaimPieces := by
  fin_cases i <;> simp [claimPieces, anyClaimPieces, ofHeads, reporting]

theorem claimEcho_only (s : State) (p : BitVec 32) : ChangesOnly anyClaimPieces s (s.claimEcho p) := by
  unfold State.claimEcho
  split
  · exact ChangesOnly.refl _ _
  · split
    · exact (headEcho_only s _ p).mono (claimPieces_sub _)
    · exact ChangesOnly.refl _ _

theorem peerClaim_only (s : State) (src : Address) (p : BitVec 32) : ChangesOnly [.table] s (s.peerClaim src p) :=
  ChangesOnly.ite (fun _ => writeEntry_only s _ _ _ _) (fun _ => ChangesOnly.refl _ _)

theorem drawEndEcho_only (s : State) (g : Nat) : ChangesOnly [.table] s (s.drawEndEcho g) :=
  ChangesOnly.ite (fun _ => removeEntry_only s _ _) (fun _ => ChangesOnly.refl _ _)

theorem peerDrawEnd_only (s : State) (src : Address) (g : Nat) : ChangesOnly [.table] s (s.peerDrawEnd src g) :=
  ChangesOnly.ite (fun _ => removeEntry_only s _ _) (fun _ => ChangesOnly.refl _ _)

theorem takeHold_only (s : State) (o : HoldOrigin) (q : Nat) : ChangesOnly [.hold] s (s.takeHold o q) :=
  ChangesOnly.ite (fun _ => ChangesOnly.refl _ _) fun _ =>
    ChangesOnly.ite (fun _ => setHold_only s _ _) (fun _ => setHold_only s _ _)

theorem valveCloseTime_only (s : State) (i : LocalHead) : ChangesOnly (.head i :: reporting) s (s.valveCloseTime i) :=
  ChangesOnly.ite (fun _ => ((markJog_only s i).comp (closeValve_only _ i)).mono (by simp))
    fun _ => ChangesOnly.refl _ _

theorem claimRetry_only (s : State) (i : LocalHead) : ChangesOnly (claimPieces i) s (s.claimRetry i) := by
  unfold State.claimRetry
  dsimp only
  split
  · split
    · split
      · exact ((updClaim_only s i _).comp (formClaim_only _ i)).mono (by simp [claimPieces])
      · exact (updClaim_only s i _).mono (by simp [claimPieces])
    · exact ChangesOnly.refl _ _
  all_goals exact ChangesOnly.refl _ _

theorem drawEntryExpiry_only (s : State) (src : Address) (g : Nat) :
    ChangesOnly [.table] s (s.drawEntryExpiry src g) :=
  setTable_only s _

theorem holdExpiry_only (s : State) : ChangesOnly ([.hold, .renewal] ++ reporting) s s.holdExpiry := by
  have h := (stopHold_only s none).mono (qs := [.hold, .renewal] ++ reporting) (by simp)
  unfold State.holdExpiry
  dsimp only
  split
  · split
    · exact h.trans ((sendHold_only _).mono (by simp))
    · exact h
  · exact ChangesOnly.refl _ _

theorem holdRenewal_only (s : State) : ChangesOnly (.renewal :: reporting) s s.holdRenewal := by
  have h := (setRenewal_only s none).mono (qs := .renewal :: reporting) (by simp)
  unfold State.holdRenewal
  dsimp only
  split
  · split
    · exact h.trans (sendHold_only _)
    · exact h
  · exact ChangesOnly.refl _ _

theorem stloFilter_only (s : State) (l : StloLevel) (held : Nat) :
    ChangesOnly [.stloInput] s (s.stloFilter l held) :=
  ChangesOnly.ite (fun _ => setStloInput_only s _ _) (fun _ => ChangesOnly.refl _ _)

theorem stloSample_only (s : State) : ChangesOnly ([.stlo, .renewal] ++ reporting) s s.stloSample := by
  have h := ((setStlo_only s .low).comp (latch_only _ .steamLow)).mono (qs := [.stlo, .renewal] ++ reporting)
    (by simp [reporting])
  unfold State.stloSample
  dsimp only
  split
  · split
    · exact h.trans ((sendHold_only _).mono (by simp))
    · exact h
  · exact (setStlo_only s .high).mono (by simp)
  all_goals exact ChangesOnly.refl _ _

/-- A sample takes the filtered level, whichever it was and is. -/
@[simp] theorem stloSample_stlo (s : State) : s.stloSample.sdu.stlo = s.sdu.stloInput := by
  unfold State.stloSample
  split
  · next h _ =>
    rw [h]
    dsimp only
    split
    · exact ((sendHold_only _).keeps .stlo (by decide)).trans ((latch_only _ _).keeps .stlo (by decide))
    · exact (latch_only _ _).keeps .stlo (by decide)
  all_goals simp_all

/-- What a sample of the steam-low input changes (R80, R81). -/
def samplePieces : List Piece :=
  [.stloInput, .stlo, .renewal] ++ reporting

theorem stloFall_only (s : State) (held : Nat) : ChangesOnly samplePieces s (s.stloFall held) :=
  ((stloFilter_only s _ _).comp (stloSample_only _)).mono (by simp [samplePieces])

theorem stloRise_only (s : State) (held : Nat) : ChangesOnly samplePieces s (s.stloRise held) :=
  ((stloFilter_only s _ _).comp (stloSample_only _)).mono (by simp [samplePieces])

theorem silenceThreshold_only (s : State) : ChangesOnly (.isolation :: reporting) s s.silenceThreshold :=
  ChangesOnly.ite (fun _ => ((setIsolated_only s true).comp (latch_only _ _)).mono (by simp))
    fun _ => ChangesOnly.refl _ _

theorem relistenEnd_only (s : State) : ChangesOnly [.isolation] s s.relistenEnd :=
  ChangesOnly.ite (fun _ => setRelisten_only s none) (fun _ => ChangesOnly.refl _ _)

/-! ## The drive link -/

/-- What a grant can change. -/
def linkPieces : List Piece :=
  .link :: ofHeads .slot

theorem driveGrant_only (s : State) : ChangesOnly linkPieces s s.driveGrant := by
  unfold State.driveGrant
  split
  · split
    · next i _ _ _ _ _ =>
      exact ((updSlot_only s i _).comp (setCurrent_only _ _)).widen (by fin_cases i <;> decide)
    · exact ChangesOnly.refl _ _
  · exact ChangesOnly.refl _ _

/-- What the completion of a head's transaction can change. -/
def completionPieces (i : LocalHead) : List Piece :=
  [.link, .slot i, .claim i] ++ finishPieces i

theorem applyCompletion_only (s : State) (i : LocalHead) (k : DriveKind) (c : ReplyClass) (torque angle : Nat) :
    ChangesOnly (.slot i :: finishPieces i) s (s.applyCompletion i k c torque angle) := by
  have h := (markJog_only s i).mono (qs := .slot i :: finishPieces i) (by simp [finishPieces])
  have hu : ∀ t f, ChangesOnly (.slot i :: finishPieces i) t (t.updHead i f) := fun t f =>
    (updHead_only t i f).mono (by simp [finishPieces])
  unfold State.applyCompletion
  dsimp only
  split
  · exact h.trans (hu _ _)
  · exact h.trans (hu _ _)
  · exact h.trans ((hu _ _).trans ((finish_only _ i _ _ _).mono (by simp)))
  · exact h.trans ((hu _ _).trans ((finish_only _ i _ _ _).mono (by simp)))
  · exact h.trans ((updSlot_only _ i _).mono (by simp))
  · exact h
  · exact h
  · exact h
  · exact h
  · exact ChangesOnly.refl _ _

theorem countCompletion_only (s : State) (i : LocalHead) (c : ReplyClass) :
    ChangesOnly (reporting ++ [.head i, .claim i]) s (s.countCompletion i c) := by
  cases c
  · exact (driveSucceeded_only s i).mono (by simp)
  · exact ChangesOnly.refl _ _
  · exact driveFailed_only s i

theorem complete_only (s : State) (t : Transaction) (reply : BitVec 48) :
    ChangesOnly (completionPieces t.head) s (s.complete t reply) := by
  have h := ((setCurrent_only s none).comp (countCompletion_only _ t.head (judgeReply t.request.kind reply))).mono
    (qs := completionPieces t.head) (by simp [completionPieces, finishPieces, handOffPieces, reporting])
  unfold State.complete
  dsimp only
  split
  · exact h.trans ((applyCompletion_only _ _ _ _ _ _).mono
      (by simp [completionPieces, finishPieces, handOffPieces, reporting]))
  · exact h

/-- What the completion of a transaction can change, whosever it is. -/
def anyCompletionPieces : List Piece :=
  .link :: (ofHeads .slot ++ ofHeads .claim ++ ofHeads .head ++ ofHeads .headCounts ++ handOffPieces)

theorem transactionComplete_only (s : State) (reply : BitVec 48) :
    ChangesOnly anyCompletionPieces s (s.transactionComplete reply) := by
  unfold State.transactionComplete
  split
  · next t _ =>
    split
    · refine (complete_only s t reply).widen ?_
      generalize t.head = i
      fin_cases i <;> decide
    · exact ChangesOnly.refl _ _
  · exact ChangesOnly.refl _ _

theorem resultWaitExpiry_only (s : State) (i : LocalHead) : ChangesOnly [.slot i] s (s.resultWaitExpiry i) := by
  unfold State.resultWaitExpiry
  split
  · split
    · exact (updSlot_only s i _).trans (request_only _ i _)
    · exact ChangesOnly.refl _ _
  · exact ChangesOnly.refl _ _

/-! ## Verdicts -/

/-- What a matched verdict can change. -/
def matchPieces (i : LocalHead) : List Piece :=
  [.awaiting, .silentRun, .learned i, .headCounts i, .head i, .claim i] ++ reporting

theorem matchVerdict_only (s : State) (i : LocalHead) (e : AwaitingEntry) (f : Finding) (depth : Nat) :
    ChangesOnly (matchPieces i) s (s.matchVerdict i e f depth) := by
  have hm : ChangesOnly (matchPieces i) s (s.matchEntry i e f) :=
    ((setAwaitingRun_only s _ _).comp ((updLearned_only _ i _).comp (updCounters_only _ i _))).mono (by simp [matchPieces])
  unfold State.matchVerdict
  dsimp only
  split
  · refine hm.trans ?_
    have hl := (updLearned_only (s.matchEntry i e f) i fun v =>
      v.teach ((s.matchEntry i e f).profile e.profile) f depth).mono (qs := matchPieces i) (by simp [matchPieces])
    unfold State.teach
    dsimp only
    split
    · exact hl.trans ((benchHead_only _ i _).mono (by simp [matchPieces, reporting]))
    · exact hl
  · exact hm

/-- What a taken VERDICT can change at any of the heads. -/
def anyMatchPieces : List Piece :=
  [.awaiting, .silentRun, .verdictCounts] ++ (ofHeads .learned ++ ofHeads .headCounts ++ ofHeads .head ++ ofHeads .claim)
    ++ reporting

theorem takeVerdict_only (s : State) (src : Address) (p : BitVec 56) :
    ChangesOnly anyMatchPieces s (s.takeVerdict src p) := by
  unfold State.takeVerdict
  split
  · exact ChangesOnly.refl _ _
  · split
    · exact ChangesOnly.refl _ _
    · split
      · exact (count_lateVerdicts_only s).widen (by decide)
      · split
        · exact (count_mismatches_only s).widen (by decide)
        · split
          · next i _ => exact (matchVerdict_only s i _ _ _).widen (by fin_cases i <;> decide)
          · exact ChangesOnly.refl _ _

theorem noVerdict_only (s : State) : ChangesOnly (.silentRun :: reporting) s s.noVerdict :=
  ChangesOnly.ite (fun _ => ((setRun_only s 0).comp (latch_only _ _)).mono (by simp))
    fun _ => (setRun_only s _).mono (by simp)

theorem verdictExpiry_only (s : State) :
    ChangesOnly ([.awaiting, .silentRun] ++ ofHeads .headCounts ++ reporting) s s.verdictExpiry := by
  unfold State.verdictExpiry
  dsimp only
  split
  · exact ChangesOnly.refl _ _
  · split
    · next rest _ _ =>
      have h := (setAwaiting_only s rest).widen (qs := [.awaiting, .silentRun] ++ ofHeads .headCounts ++ reporting)
        (by decide)
      split
      · next i _ => exact h.trans (((updCounters_only _ i _).comp (noVerdict_only _)).widen (by fin_cases i <;> decide))
      · exact h.trans ((noVerdict_only _).widen (by decide))
    · exact ChangesOnly.refl _ _

theorem returnHead_only (s : State) (b : Bool) (i : LocalHead) :
    ChangesOnly ([.head i, .learned i] ++ reporting) s (s.returnHead b i) :=
  ChangesOnly.ite (fun _ => (sendHeadState_only s i _).mono (by simp)) fun _ =>
    ((updHead_only s i _).comp ((updLearned_only _ i _).comp (sendHeadState_only _ i _))).mono (by simp)

/-- What a HEAD_RETURN can change. -/
def returnPieces : List Piece :=
  ofHeads .head ++ ofHeads .learned ++ reporting

theorem takeReturn_only (s : State) (src : Address) (p : BitVec 16) :
    ChangesOnly returnPieces s (s.takeReturn src p) := by
  have h : ∀ i t, ChangesOnly returnPieces t (State.returnHead t (returnTrim p) i) := fun i t =>
    (returnHead_only t _ i).widen (by fin_cases i <;> decide)
  unfold State.takeReturn
  split
  · exact ChangesOnly.refl _ _
  · split
    · exact ChangesOnly.eachOwned s h
    · split
      · exact h _ s
      · exact ChangesOnly.refl _ _

theorem jogEndHead_only (i : LocalHead) (s : State) :
    ChangesOnly (.learned i :: reporting) s (State.jogEndHead i s) :=
  ChangesOnly.ite (fun _ => ((updLearned_only s i _).comp (sendHeadState_only _ i _)).mono (by simp))
    fun _ => ChangesOnly.refl _ _

theorem jogEnd_only (s : State) : ChangesOnly (ofHeads .learned ++ reporting) s s.jogEnd :=
  ChangesOnly.eachOwned s fun i t => (jogEndHead_only i t).widen (by fin_cases i <;> decide)

/-! ## Modes, notices and counters -/

theorem changeMode_only (s : State) (m : StationMode) :
    ChangesOnly ([.mode, .renewal] ++ ofHeads .learned ++ reporting) s (s.changeMode m) := by
  have h := (setMode_only s m).mono (qs := [.mode, .renewal] ++ ofHeads .learned ++ reporting) (by simp)
  unfold State.changeMode
  dsimp only
  split
  · exact h.trans ((sendHold_only _).widen (by decide))
  · split
    · exact h.trans ((jogEnd_only _).widen (by decide))
    · exact h

theorem takeLineMode_only (s : State) (src : Address) (p : BitVec 8) :
    ChangesOnly ([.mode, .renewal] ++ ofHeads .learned ++ reporting) s (s.takeLineMode src p) := by
  unfold State.takeLineMode
  split
  · exact ChangesOnly.refl _ _
  · split
    · exact ChangesOnly.refl _ _
    · split
      · exact ChangesOnly.refl _ _
      · exact changeMode_only s _

/-- What a LINE_CLEAR can change. -/
def clearPieces : List Piece :=
  [.records, .awaiting, .silentRun, .badFrames, .recordCounts, .verdictCounts, .claimsRefused]
    ++ (ofHeads .headCounts ++ ofHeads .learned) ++ reporting

theorem emptied_only (s : State) : ChangesOnly [.records, .awaiting, .silentRun] s s.emptied := by
  intro p
  cases p <;> simp [Piece.same, State.emptied, State.head, State.claim, State.slot, State.learned]

theorem clearCounts_only (s : State) : ChangesOnly clearPieces s s.clearCounts := by
  refine ChangesOnly.trans (t := { s with counters := .zero }) ?_ (ChangesOnly.eachOwned _ fun i t =>
    (updCounters_only t i _).mono (by fin_cases i <;> simp [clearPieces, ofHeads]))
  intro p
  cases p <;> simp [clearPieces, reporting, ofHeads, Piece.same, State.head, State.claim, State.slot, State.learned]

theorem takeLineClear_only (s : State) (src : Address) (p : BitVec 16) :
    ChangesOnly clearPieces s (s.takeLineClear src p) := by
  have ht : ∀ t, ChangesOnly clearPieces t (t.eachOwned State.clearTrim) := fun t =>
    ChangesOnly.eachOwned t fun i u => (updLearned_only u i _).mono (by fin_cases i <;> simp [clearPieces, ofHeads])
  have h := ((emptied_only s).comp (clearNotices_only _ 0xFFFF)).widen (qs := clearPieces) (by decide)
  unfold State.takeLineClear
  split
  · unfold State.lineClear
    dsimp only
    split
    · split
      · exact (h.trans (clearCounts_only _)).trans (ht _)
      · exact h.trans (ht _)
    · split
      · exact h.trans (clearCounts_only _)
      · exact h
  · exact ChangesOnly.refl _ _

theorem takeNoticeClear_only (s : State) (src : Address) (p : BitVec 24) :
    ChangesOnly reporting s (s.takeNoticeClear src p) :=
  ChangesOnly.ite (fun _ => clearNotices_only s _) (fun _ => ChangesOnly.refl _ _)

theorem takeMaskSet_only (s : State) (src : Address) (p : BitVec 24) :
    ChangesOnly (.mask :: reporting) s (s.takeMaskSet src p) :=
  ChangesOnly.ite (fun _ => changeMask_only s _) (fun _ => ChangesOnly.refl _ _)

theorem takeMaskClear_only (s : State) (src : Address) (p : BitVec 24) :
    ChangesOnly (.mask :: reporting) s (s.takeMaskClear src p) :=
  ChangesOnly.ite (fun _ => changeMask_only s _) (fun _ => ChangesOnly.refl _ _)

theorem takeRequest_only (s : State) (src : Address) (p : BitVec 16) :
    ChangesOnly reporting s (s.takeRequest src p) := by
  unfold State.takeRequest
  split
  · split
    · exact handIn_reporting s rfl
    · exact ChangesOnly.refl _ _
  · exact ChangesOnly.refl _ _

/-! ## Joining -/

theorem sendJoin_only (s : State) : ChangesOnly reporting s s.sendJoin :=
  handIn_reporting s rfl

theorem sendTimedJoin_only (s : State) : ChangesOnly (.joining :: reporting) s s.sendTimedJoin :=
  ((sendJoin_only s).comp (setJoinTimer_only _ _)).mono (by simp [reporting])

/-- What leaving JOINING changes (R176). -/
def joinPieces : List Piece :=
  [.ttu, .records, .table, .hold, .renewal, .stlo, .isolation, .link, .awaiting, .silentRun, .silence, .mode, .joining,
    .mask] ++ (ofHeads .claim ++ ofHeads .slot ++ ofHeads .learned) ++ reporting

theorem joinedState_only (s : State) : ChangesOnly joinPieces s s.joinedState := by
  intro p
  cases p <;> simp [joinPieces, ofHeads, reporting, Piece.same, State.joinedState, Sdu.onJoin, State.head, State.claim,
    State.slot, State.learned] <;> next i => fin_cases i <;> simp

theorem tryJoin_only (s : State) : ChangesOnly joinPieces s s.tryJoin :=
  ChangesOnly.ite
    (fun _ => (joinedState_only s).trans (((changeMask_only _ _).comp (sendJoin_only _)).widen (by decide)))
    fun _ => ChangesOnly.refl _ _

theorem joinTimer_only (s : State) : ChangesOnly (.joining :: reporting) s s.joinTimer :=
  ChangesOnly.ite (fun _ => sendTimedJoin_only s) (fun _ => ChangesOnly.refl _ _)

theorem joinWindowPass_only (s : State) : ChangesOnly joinPieces s s.joinWindowPass :=
  ChangesOnly.ite (fun _ => ((setWindow_only s _).widen (by decide)).trans (tryJoin_only _))
    fun _ => ChangesOnly.refl _ _

theorem joinEcho_only (s : State) : ChangesOnly [.joining] s s.joinEcho :=
  ChangesOnly.ite (fun _ => setWindow_only s _) (fun _ => ChangesOnly.refl _ _)

theorem enterRoster_only (s : State) (src : Address) (r : Role) (p : BitVec 24) :
    ChangesOnly (.roster :: joinPieces) s (s.enterRoster src r p) := by
  have hr := (setRoster_only s (writeRoster (s.heardEntry src r p) s.sc.roster)).mono (qs := .roster :: joinPieces)
    (by simp)
  have hl : ∀ t n, ChangesOnly (.roster :: joinPieces) t (t.latch n) := fun t n => (latch_only t n).widen (by decide)
  have hj : ∀ t, ChangesOnly (.roster :: joinPieces) t t.sendJoin := fun t => (sendJoin_only t).widen (by decide)
  have ht : ∀ t, ChangesOnly (.roster :: joinPieces) t t.tryJoin := fun t => (tryJoin_only t).mono (by simp)
  unfold State.enterRoster
  dsimp only
  split <;> split <;> split
  · exact hr.trans ((hl _ _).trans ((hj _).trans (ht _)))
  · exact hr.trans ((hj _).trans (ht _))
  · exact hr.trans ((hl _ _).trans (ht _))
  · exact hr.trans (ht _)
  · exact hr.trans ((hl _ _).trans (hj _))
  · exact hr.trans (hj _)
  · exact hr.trans (hl _ _)
  · exact hr

theorem takeJoin_only (s : State) (src : Address) (p : BitVec 24) :
    ChangesOnly (.roster :: joinPieces) s (s.takeJoin src p) := by
  unfold State.takeJoin
  split
  · exact ChangesOnly.refl _ _
  · split
    · split
      · exact enterRoster_only s src _ p
      · exact ChangesOnly.refl _ _
    · exact ChangesOnly.refl _ _

theorem latchInvalid_only (s : State) (c : ConfigStatus) : ChangesOnly reporting s (s.latchInvalid c) :=
  ChangesOnly.ite (fun _ => latch_only s _) (fun _ => ChangesOnly.refl _ _)

theorem takeSetup_only (s : State) (src : Address) (p : BitVec 64) :
    ChangesOnly (.setupParts :: joinPieces) s (s.takeSetup src p) := by
  unfold State.takeSetup
  split
  · exact ChangesOnly.refl _ _
  · split
    · exact (latch_only s _).widen (by decide)
    · split
      · exact ChangesOnly.refl _ _
      · exact ((setSetupParts_only s _).comp ((latchInvalid_only _ _).comp (tryJoin_only _))).widen (by decide)

theorem takeProfile_only (s : State) (src : Address) (p : BitVec 64) :
    ChangesOnly (.profiles :: joinPieces) s (s.takeProfile src p) := by
  unfold State.takeProfile
  dsimp only
  split
  · exact ChangesOnly.refl _ _
  · split
    · exact (latch_only s _).widen (by decide)
    · split
      · exact ChangesOnly.refl _ _
      · split
        · exact ChangesOnly.refl _ _
        · exact ((setProfiles_only s _).comp ((latchInvalid_only _ _).comp (tryJoin_only _))).widen (by decide)

/-! ## The bus -/

theorem startBit_only (s : State) : ChangesOnly [.receive] s s.startBit :=
  ChangesOnly.ite (fun _ => setReceive_only s _) (fun _ => ChangesOnly.refl _ _)

theorem moveClaim_only (s : State) (f : TxFrame) (next : ClaimState → ClaimState) :
    ChangesOnly (ofHeads .claim) s (s.moveClaim f next) := by
  cases f <;> try exact ChangesOnly.refl _ _
  next g u d =>
    unfold State.moveClaim
    dsimp only
    split
    · next i _ => exact (updClaim_only s i _).mono (by fin_cases i <;> simp [ofHeads])
    · exact ChangesOnly.refl _ _

/-- Only the claim of the frame's own head can move. -/
theorem moveClaim_other (s : State) (f : TxFrame) (next : ClaimState → ClaimState) {i : LocalHead}
    (h : ∀ g u d, f = .drawClaim g u d → s.localOf g ≠ some i) : (s.moveClaim f next).claim i = s.claim i := by
  cases f <;> try rfl
  next g u d =>
    unfold State.moveClaim
    dsimp only
    split
    · next j hj => exact State.claim_updClaim_other s (fun e => h g u d rfl (by rw [hj, e])) _
    · rfl

theorem contentionStart_only (s : State) :
    ChangesOnly ([.queue, .inFlight, .receive] ++ ofHeads .claim) s s.contentionStart := by
  unfold State.contentionStart
  split
  · exact (takeInFlight_only s _ _ _).comp (moveClaim_only _ _ _)
  · exact ChangesOnly.refl _ _

theorem contentionWon_only (s : State) : ChangesOnly (.inFlight :: ofHeads .claim) s s.contentionWon := by
  unfold State.contentionWon
  split
  · split
    · exact ChangesOnly.refl _ _
    · exact ((setInFlight_only s _).comp (moveClaim_only _ _ _)).mono (by simp)
  · exact ChangesOnly.refl _ _

theorem dropWaitingNotice_only (s : State) (e : TxEntry) : ChangesOnly [.queue] s (s.dropWaitingNotice e) :=
  ChangesOnly.ite (fun _ => setQueue_only s _) (fun _ => ChangesOnly.refl _ _)

theorem lossPieces_sub (s : State) (f : TxFrame) : lossPieces s f ⊆ .renewal :: ofHeads .claim := by
  cases f <;> simp [lossPieces, ofHeads]
  split
  · next i _ => fin_cases i <;> simp
  · simp

/-- What putting a frame back can change (R161, R163, R165). -/
def returnFramePieces : List Piece :=
  [.inFlight, .renewal] ++ ofHeads .claim ++ reporting

theorem returnFrame_only (s : State) (e : TxEntry) : ChangesOnly returnFramePieces s (s.returnFrame e) :=
  ((((setInFlight_only s none).comp (moveClaim_only _ _ _)).comp (dropWaitingNotice_only _ e)).widen
    (by decide)).trans ((enter_only _ e.putBack).mono (by
      intro p hp
      rcases List.mem_append.1 hp with h | h
      · exact List.mem_append_right _ h
      · have := lossPieces_sub _ _ h
        simp [returnFramePieces, ofHeads] at this ⊢
        tauto))

/-- A lost contention is read in the header alone, where a recessive bit is sent and a dominant one read (R160). -/
theorem readBack_lost {inHeader sent read : Bool} :
    readBack inHeader sent read = .lostContention ↔ inHeader = true ∧ sent = true ∧ read = false := by
  cases inHeader <;> cases sent <;> cases read <;> decide

/-- A transmit error is every other difference of what is sent and read (R160). -/
theorem readBack_error {inHeader sent read : Bool} :
    readBack inHeader sent read = .transmitError ↔ sent ≠ read ∧ (inHeader = true → sent = false) := by
  cases inHeader <;> cases sent <;> cases read <;> decide

theorem lostContention_only (s : State) (bit : Nat) (level : Bool) :
    ChangesOnly returnFramePieces s (s.lostContention bit level) := by
  unfold State.lostContention
  split
  · split
    · exact returnFrame_only s _
    · exact ChangesOnly.refl _ _
  · exact ChangesOnly.refl _ _

theorem badFrame_only (s : State) : ChangesOnly (.badFrames :: reporting) s s.badFrame :=
  ((count_badFrames_only s).comp (latch_only _ _)).mono (by simp)

theorem errorStop_only (s : State) (f : InFlight) :
    ChangesOnly ([.badFrames, .receive] ++ returnFramePieces) s (s.errorStop f) :=
  ((badFrame_only s).comp ((returnFrame_only _ _).comp (setErrorCounted_only _ true))).widen (by decide)

theorem transmitError_only (s : State) (bit : Nat) (level : Bool) :
    ChangesOnly ([.badFrames, .receive] ++ returnFramePieces) s (s.transmitError bit level) := by
  unfold State.transmitError
  split
  · split
    · exact errorStop_only s _
    · exact ChangesOnly.refl _ _
  · exact ChangesOnly.refl _ _

theorem badReceived_only (s : State) (r : FrameRead) :
    ChangesOnly ([.badFrames, .receive] ++ reporting) s (s.badReceived r) :=
  ChangesOnly.ite
    (fun _ => ChangesOnly.ite (fun _ => (frameEnd_only s).mono (by simp)) fun _ =>
      ((frameEnd_only s).comp (badFrame_only _)).widen (by decide))
    fun _ => ChangesOnly.refl _ _

theorem endIsolation_only (s : State) : ChangesOnly [.isolation] s s.endIsolation :=
  ChangesOnly.ite (fun _ => endIsolated_only s _ _) (fun _ => ChangesOnly.refl _ _)

theorem checkAddress_only (s : State) (src : Address) :
    ChangesOnly (.addressConflict :: reporting) s (s.checkAddress src) :=
  ChangesOnly.ite (fun _ => ((setConflict_only s true).comp (latch_only _ _)).mono (by simp))
    fun _ => ChangesOnly.refl _ _

theorem heardOther_only (s : State) (src : Address) : ChangesOnly hearing s (s.heardOther src) :=
  ((setSilence_only s _).comp ((endIsolation_only _).comp (checkAddress_only _ src))).widen (by decide)

theorem completed_only (s : State) : ChangesOnly [.inFlight, .receive] s s.completed :=
  ((frameEnd_only s).comp (setInFlight_only _ none)).mono (by simp)

/-- A frame from another station changes what its owner changes, and what every such frame does. -/
theorem receive_only {ps : List Piece} (s : State) (src : Address) (owner : State → State)
    (h : ∀ t, ChangesOnly ps t (owner t)) : ChangesOnly (hearing ++ ps) s (s.receive src owner) :=
  ChangesOnly.ite
    (fun _ => (((frameEnd_only s).comp (heardOther_only _ src)).comp (h _)).mono (by simp [hearing, reporting]))
    fun _ => ChangesOnly.refl _ _

theorem receiveOr_only {ps : List Piece} (s : State) (src : Address) (k : FrameKind) (b : List Byte)
    (echo owner : State → State) (he : ∀ t, ChangesOnly ps t (echo t)) (ho : ∀ t, ChangesOnly ps t (owner t)) :
    ChangesOnly (.inFlight :: (hearing ++ ps)) s (s.receiveOr src k b echo owner) :=
  ChangesOnly.ite (fun _ => ((completed_only s).comp (he _)).mono (by
      intro p hp
      simp only [hearing, List.mem_append, List.mem_cons, List.not_mem_nil, or_false] at hp ⊢
      tauto))
    fun _ => (receive_only s src owner ho).mono (by simp)

theorem receiveUnowned_only (s : State) (src : Address) (k : Nat) (b : List Byte) :
    ChangesOnly (.inFlight :: hearing) s (s.receiveUnowned src k b) :=
  ChangesOnly.ite (fun _ => (completed_only s).mono (by simp [hearing]))
    fun _ => (receive_only s src id fun _ => ChangesOnly.refl [] _).mono (by simp)

theorem receiveJoinEcho_only (s : State) : ChangesOnly [.inFlight, .receive, .joining] s s.receiveJoinEcho := by
  unfold State.receiveJoinEcho
  split
  · split
    · exact ((completed_only s).comp (joinEcho_only _)).mono (by simp)
    · exact ChangesOnly.refl _ _
  · exact ChangesOnly.refl _ _

theorem busIdleSeen_only (s : State) : ChangesOnly ([.receive, .joining] ++ reporting) s s.busIdleSeen := by
  have h := (setReceive_only s .idle).mono (qs := [.receive, .joining] ++ reporting) (by simp)
  unfold State.busIdleSeen
  dsimp only
  split
  · split
    · exact h
    · exact h.trans ((sendTimedJoin_only _).mono (by simp))
  · exact ChangesOnly.refl _ _

end Sys2Proof.Machine
end

