-- ==== Sys2Proof/Laws/Clock.lean ====
section
/-!
SUPPORT. The passing of time: what a timed row changes, what time leaves alone, and how a condition is carried through it.
-/
namespace Sys2Proof.Machine

/-- What the rows that time brings about can change. -/
def timePieces : List Piece :=
  [.claimsRefused, .verdictCounts] ++ (ofHeads .head ++ ofHeads .headCounts) ++ joinPieces

theorem fire_only (e : TimedEvent) (s : State) : ChangesOnly timePieces s (e.fire s) := by
  cases e
  · exact (pitchTimeout_only s).widen (by decide)
  · exact (coldStop_only s).widen (by decide)
  · next i => exact (valveCloseTime_only s i).widen (by fin_cases i <;> decide)
  · next i => exact (claimRetry_only s i).widen (by fin_cases i <;> decide)
  · exact (drawEntryExpiry_only s _ _).widen (by decide)
  · exact (holdExpiry_only s).widen (by decide)
  · exact (holdRenewal_only s).widen (by decide)
  · exact (stloSample_only s).widen (by decide)
  · exact (silenceThreshold_only s).widen (by decide)
  · exact (relistenEnd_only s).widen (by decide)
  · exact (transactionComplete_only s _).widen (by decide)
  · exact (driveGrant_only s).widen (by decide)
  · next i => exact (resultWaitExpiry_only s i).widen (by fin_cases i <;> decide)
  · exact (verdictExpiry_only s).widen (by decide)
  · exact (joinTimer_only s).widen (by decide)
  · exact (joinWindowPass_only s).widen (by decide)

@[simp] theorem mem_dueIf {c : Bool} {t d : Nat} {e f : TimedEvent} :
    (d, f) ∈ dueIf c t e ↔ c = true ∧ d = t ∧ f = e := by
  cases c <;> simp [dueIf]

@[simp] theorem mem_dueAt {t : Option Nat} {d : Nat} {e f : TimedEvent} :
    (d, f) ∈ dueAt t e ↔ t = some d ∧ f = e := by
  cases t <;> simp [dueAt, eq_comm]

@[simp] theorem takesRows_nil {target : Nat} {s u : State} :
    s.takesRows target [] u ↔ u = s ∧ ∀ y ∈ s.timers, target ≤ y.1 :=
  Iff.rfl

@[simp] theorem takesRows_cons {target : Nat} {x : Nat × TimedEvent} {rows : List (Nat × TimedEvent)} {s u : State} :
    s.takesRows target (x :: rows) u ↔ earliest s.timers = some x ∧ x.1 < target
      ∧ (x.2.fire { s with now := max s.now x.1 }).takesRows target rows u :=
  Iff.rfl

theorem passTo_only (target n : Nat) (s : State) : ChangesOnly (.now :: timePieces) s (State.passTo target n s) := by
  have hs : ∀ u t, ChangesOnly (.now :: timePieces) u (State.setNow u t) := fun u t => (setNow_only u t).mono (by simp)
  induction n generalizing s with
  | zero => exact hs _ _
  | succ n ih =>
    unfold State.passTo
    split
    · split
      · exact ((hs _ _).trans ((fire_only _ _).mono (by simp))).trans (ih _)
      · exact hs _ _
    · exact hs _ _

theorem elapse_only (s : State) (dt : Nat) : ChangesOnly (.now :: timePieces) s (s.elapse dt) :=
  ChangesOnly.ite (fun _ => ChangesOnly.refl _ _) (fun _ => passTo_only _ _ s)

theorem elapse_zero (s : State) : s.elapse 0 = s := by
  simp [State.elapse]

theorem passTo_now (target n : Nat) (s : State) : (State.passTo target n s).now = target := by
  induction n generalizing s with
  | zero => rfl
  | succ n ih =>
    unfold State.passTo
    split
    · split
      · exact ih _
      · rfl
    · rfl

/-- `dt` µs later the clock stands `dt` µs later. -/
theorem elapse_now (s : State) (dt : Nat) : (s.elapse dt).now = s.now + dt := by
  unfold State.elapse
  split
  · omega
  · exact passTo_now _ _ s

theorem elapse_pending (s : State) (dt : Nat) : (s.elapse dt).pending = s.pending :=
  (elapse_only s dt).keeps .pending (by decide)

theorem elapse_inReset (s : State) (dt : Nat) : (s.elapse dt).sc.inReset = s.sc.inReset :=
  ((elapse_only s dt).keeps .resetting (by decide)).1

theorem fire_now (e : TimedEvent) (s : State) : (e.fire s).now = s.now :=
  (fire_only e s).keeps .now (by decide)

/-- A condition that the clock's advance and every timed row keep is kept by the passing of time. -/
theorem elapse_keeps {P : State → Prop} (hnow : ∀ s t, s.now ≤ t → P s → P (s.setNow t))
    (hfire : ∀ e s, P s → P (TimedEvent.fire e s)) {s : State} (h : P s) (dt : Nat) : P (s.elapse dt) := by
  have key : ∀ n target s, s.now ≤ target → P s → P (State.passTo target n s) := by
    intro n target
    induction n with
    | zero => exact fun s hle hs => hnow s target hle hs
    | succ n ih =>
      intro s hle hs
      unfold State.passTo
      split
      · next d e _ =>
        split
        · have h1 := hnow s (max s.now d) (le_max_left _ _) hs
          refine ih _ ?_ (hfire e _ h1)
          rw [fire_now]
          exact max_le hle (le_of_lt ‹_›)
        · exact hnow s target hle hs
      · exact hnow s target hle hs
  unfold State.elapse
  split
  · exact h
  · exact key _ _ s (Nat.le_add_right _ _) h

theorem whenLive_live {s : State} {dt : Nat} (h : (s.elapse dt).sc.inReset = false) (f : State → State) :
    s.whenLive dt f = f (s.elapse dt) := by
  simp [State.whenLive, h]

theorem whenLive_inReset {s : State} {dt : Nat} (h : (s.elapse dt).sc.inReset = true) (f : State → State) :
    s.whenLive dt f = s.elapse dt := by
  simp [State.whenLive, h]

theorem whenJoined_joined {s : State} {dt : Nat} (h : (s.elapse dt).sc.inReset = false)
    (hj : (s.elapse dt).joined = true) (f : State → State) : s.whenJoined dt f = f (s.elapse dt) := by
  simp [State.whenJoined, State.whenLive, h, hj]

/-- A condition that time keeps, and that the command's own effect keeps on a part that is not in reset, is kept. -/
theorem whenLive_keeps {P : State → Prop} {s : State} {dt : Nat} {f : State → State} (h : P (s.elapse dt))
    (hf : ∀ t, t.sc.inReset = false → P t → P (f t)) : P (s.whenLive dt f) := by
  unfold State.whenLive
  dsimp only
  split
  · exact h
  · next hn => exact hf _ (by simpa using hn) h

/-- A frame from another station is taken where the part reads frames. -/
theorem receive_reads {s : State} (h : s.reads = true) (src : Address) (owner : State → State) :
    s.receive src owner = owner (s.frameEnd.heardOther src) := by
  simp [State.receive, h]

theorem receive_unread {s : State} (h : s.reads = false) (src : Address) (owner : State → State) :
    s.receive src owner = s := by
  simp [State.receive, h]

theorem reads_live {s : State} (h : s.reads = true) : s.sc.inReset = false := by
  simp [State.reads] at h
  exact h.1

end Sys2Proof.Machine
end

