-- ==== Sys2Proof/WellFormed.lean ====
section
/-!
DEFINITION. Which commands are well formed: what the types of the operands do not already say. Every other command is
well formed whatever its operands.
-/
namespace Sys2Proof

/-- An UNOWNED_FRAME is of a kind without an owner at the station, or of a kind the part does not know (R167). -/
def kindUnowned (kind : BitVec 5) : Bool :=
  match Machine.FrameKind.ofCode kind.toNat with
  | some k => !k.owned
  | none => true

/-- The payload of an UNOWNED_FRAME has its kind's length, or at most 8 bytes for a kind the part does not know (R166). -/
def payloadFits (kind : BitVec 5) (payload : List Byte) : Bool :=
  match Machine.FrameKind.ofCode kind.toNat with
  | some k => payload.length == k.length
  | none => decide (payload.length ≤ 8)

/-- A command is well formed when it can be an event of its row: a BAD_FRAME_RECEIVED is a frame that R166 judges bad,
an UNOWNED_FRAME has no owner and the length of its kind, a DRAW_ENTRY_EXPIRY names a head a frame can name. -/
def Instr.wellFormed (i : Instr) : Bool :=
  match i with
  | .badFrameReceived _ r => Machine.frameBad r
  | .unownedFrame _ _ kind payload => kindUnowned kind && payloadFits kind payload
  | .drawEntryExpiry _ _ head => decide (head < 256)
  | .forwardCount _ _ _ | .reverseCount _ | .illegalQuadratureStep _ | .zeroMark _ _ _ | .pitchTimeout _ | .coldStop _
  | .valveCloseTime _ _ | .jarRecord _ _ _ | .drawClaim _ _ _ | .drawEnd _ _ _ | .steamHold _ _ _ | .claimRetry _ _
  | .holdExpiry _ | .holdRenewal _ | .stloFall _ | .stloRise _ | .silenceThreshold _ | .relistenEnd _
  | .driveGrant _ | .driveTransactionComplete _ _ | .resultWaitExpiry _ _ | .verdict _ _ _ | .verdictExpiry _
  | .headReturn _ _ _ | .lineMode _ _ _ | .lineClear _ _ _ | .join _ _ _ | .joinTimer _ | .joinWindowPass _
  | .setup _ _ _ | .profile _ _ _ | .noticeClear _ _ _ | .noticeMaskSet _ _ _ | .noticeMaskClear _ _ _
  | .counterRequest _ _ _ | .frameContentionStart _ | .lostContention _ | .transmitError _ | .busIdleSeen _
  | .supplyLow _ | .resetPin _ | .resetEnd _ _ _ _ | .startBit _ | .contentionWon _ | .joinEcho _ => true

end Sys2Proof
end

