-- ==== Sys2Proof/Laws/PerInstr.lean ====
section
/-!
SUPPORT. What holds of every command as syntax, row by row: no word spells it (log 24), and after any time a well-formed
command of its row can occur.
-/
namespace Sys2Proof.Laws.Listed
open Sys2Proof Sys2Proof.Machine

/-- No word spells the command, and a well-formed command of the same row can occur after the same time. -/
def Statement (i : Instr) : Prop :=
  (∀ nbits w, decodeTableWord nbits w ≠ some i)
    ∧ ∃ j : Instr, j.ctorIdx = i.ctorIdx ∧ elapsedBefore j = elapsedBefore i ∧ j.wellFormed = true

/-- A command that is well formed itself is the one that can occur. -/
theorem of_wellFormed {i : Instr} (h : i.wellFormed = true) : Statement i :=
  ⟨fun _ _ => by simp [decodeTableWord], i, rfl, rfl, h⟩

/-- A frame of a length no kind has. -/
def tooLong : FrameRead :=
  { cls := 0, kind := 0, src := 0, len := 15, payload := [], crc := 0, endDominant := false, cutShort := false }

theorem forwardCount (dt : Nat) (jp cp : BitVec 4) : Statement (.forwardCount dt jp cp) :=
  of_wellFormed rfl

theorem reverseCount (dt : Nat) : Statement (.reverseCount dt) :=
  of_wellFormed rfl

theorem illegalQuadratureStep (dt : Nat) : Statement (.illegalQuadratureStep dt) :=
  of_wellFormed rfl

theorem zeroMark (dt : Nat) (jp cp : BitVec 4) : Statement (.zeroMark dt jp cp) :=
  of_wellFormed rfl

theorem pitchTimeout (dt : Nat) : Statement (.pitchTimeout dt) :=
  of_wellFormed rfl

theorem coldStop (dt : Nat) : Statement (.coldStop dt) :=
  of_wellFormed rfl

theorem valveCloseTime (dt : Nat) (i : LocalHead) : Statement (.valveCloseTime dt i) :=
  of_wellFormed rfl

theorem jarRecord (dt : Nat) (src : Address) (p : BitVec 64) : Statement (.jarRecord dt src p) :=
  of_wellFormed rfl

theorem drawClaim (dt : Nat) (src : Address) (p : BitVec 32) : Statement (.drawClaim dt src p) :=
  of_wellFormed rfl

theorem drawEnd (dt : Nat) (src : Address) (p : BitVec 8) : Statement (.drawEnd dt src p) :=
  of_wellFormed rfl

theorem steamHold (dt : Nat) (src : Address) (p : BitVec 16) : Statement (.steamHold dt src p) :=
  of_wellFormed rfl

theorem claimRetry (dt : Nat) (i : LocalHead) : Statement (.claimRetry dt i) :=
  of_wellFormed rfl

theorem drawEntryExpiry (dt : Nat) (src : Address) (head : Nat) : Statement (.drawEntryExpiry dt src head) :=
  ⟨fun _ _ => by simp [decodeTableWord], .drawEntryExpiry dt src 0, rfl, rfl, rfl⟩

theorem holdExpiry (dt : Nat) : Statement (.holdExpiry dt) :=
  of_wellFormed rfl

theorem holdRenewal (dt : Nat) : Statement (.holdRenewal dt) :=
  of_wellFormed rfl

theorem stloFall (r : StloReading) : Statement (.stloFall r) :=
  of_wellFormed rfl

theorem stloRise (r : StloReading) : Statement (.stloRise r) :=
  of_wellFormed rfl

theorem silenceThreshold (dt : Nat) : Statement (.silenceThreshold dt) :=
  of_wellFormed rfl

theorem relistenEnd (dt : Nat) : Statement (.relistenEnd dt) :=
  of_wellFormed rfl

theorem driveGrant (dt : Nat) : Statement (.driveGrant dt) :=
  of_wellFormed rfl

theorem driveTransactionComplete (dt : Nat) (reply : BitVec 48) : Statement (.driveTransactionComplete dt reply) :=
  of_wellFormed rfl

theorem resultWaitExpiry (dt : Nat) (i : LocalHead) : Statement (.resultWaitExpiry dt i) :=
  of_wellFormed rfl

theorem verdict (dt : Nat) (src : Address) (p : BitVec 56) : Statement (.verdict dt src p) :=
  of_wellFormed rfl

theorem verdictExpiry (dt : Nat) : Statement (.verdictExpiry dt) :=
  of_wellFormed rfl

theorem headReturn (dt : Nat) (src : Address) (p : BitVec 16) : Statement (.headReturn dt src p) :=
  of_wellFormed rfl

theorem lineMode (dt : Nat) (src : Address) (p : BitVec 8) : Statement (.lineMode dt src p) :=
  of_wellFormed rfl

theorem lineClear (dt : Nat) (src : Address) (p : BitVec 16) : Statement (.lineClear dt src p) :=
  of_wellFormed rfl

theorem join (dt : Nat) (src : Address) (p : BitVec 24) : Statement (.join dt src p) :=
  of_wellFormed rfl

theorem joinTimer (dt : Nat) : Statement (.joinTimer dt) :=
  of_wellFormed rfl

theorem joinWindowPass (dt : Nat) : Statement (.joinWindowPass dt) :=
  of_wellFormed rfl

theorem setup (dt : Nat) (src : Address) (p : BitVec 64) : Statement (.setup dt src p) :=
  of_wellFormed rfl

theorem profile (dt : Nat) (src : Address) (p : BitVec 64) : Statement (.profile dt src p) :=
  of_wellFormed rfl

theorem noticeClear (dt : Nat) (src : Address) (p : BitVec 24) : Statement (.noticeClear dt src p) :=
  of_wellFormed rfl

theorem noticeMaskSet (dt : Nat) (src : Address) (p : BitVec 24) : Statement (.noticeMaskSet dt src p) :=
  of_wellFormed rfl

theorem noticeMaskClear (dt : Nat) (src : Address) (p : BitVec 24) : Statement (.noticeMaskClear dt src p) :=
  of_wellFormed rfl

theorem counterRequest (dt : Nat) (src : Address) (p : BitVec 16) : Statement (.counterRequest dt src p) :=
  of_wellFormed rfl

theorem frameContentionStart (dt : Nat) : Statement (.frameContentionStart dt) :=
  of_wellFormed rfl

theorem lostContention (r : BitReading) : Statement (.lostContention r) :=
  of_wellFormed rfl

theorem transmitError (r : BitReading) : Statement (.transmitError r) :=
  of_wellFormed rfl

theorem badFrameReceived (dt : Nat) (r : FrameRead) : Statement (.badFrameReceived dt r) :=
  ⟨fun _ _ => by simp [decodeTableWord], .badFrameReceived dt tooLong, rfl, rfl, rfl⟩

theorem unownedFrame (dt : Nat) (src : Address) (kind : BitVec 5) (payload : List Byte) :
    Statement (.unownedFrame dt src kind payload) :=
  ⟨fun _ _ => by simp [decodeTableWord], .unownedFrame dt src 9 (List.replicate 7 0), rfl, rfl, rfl⟩

theorem busIdleSeen (dt : Nat) : Statement (.busIdleSeen dt) :=
  of_wellFormed rfl

theorem supplyLow (dt : Nat) : Statement (.supplyLow dt) :=
  of_wellFormed rfl

theorem resetPin (dt : Nat) : Statement (.resetPin dt) :=
  of_wellFormed rfl

theorem resetEnd (dt : Nat) (addr : Address) (hcPins : BitVec 2) (fh : BitVec 6) :
    Statement (.resetEnd dt addr hcPins fh) :=
  of_wellFormed rfl

theorem startBit (dt : Nat) : Statement (.startBit dt) :=
  of_wellFormed rfl

theorem contentionWon (dt : Nat) : Statement (.contentionWon dt) :=
  of_wellFormed rfl

theorem joinEcho (dt : Nat) : Statement (.joinEcho dt) :=
  of_wellFormed rfl

end Sys2Proof.Laws.Listed
end

