-- ==== Sys2Proof/Laws/Spec.lean ====
section
/-!
SUPPORT. What the shared operations compute: bounds of counters, clamps and lists, what a hand-in does to a queue with
room, that a latched notice stands, and what the end of a cycle and a drive request leave.
-/
namespace Sys2Proof.Machine

/-! ## Counters and clamps -/

theorem bump_le (c : Nat) : bump c ≤ Config.counterMax :=
  Nat.min_le_left _ _

theorem bumpBy_le (n c : Nat) : bumpBy n c ≤ Config.counterMax :=
  Nat.min_le_left _ _

theorem bumpIf_le {c : Bool} {n : Nat} (h : n ≤ Config.counterMax) : bumpIf c n ≤ Config.counterMax := by
  unfold bumpIf; split
  · exact bump_le n
  · exact h

theorem clamp_between {lo hi : Int} (h : lo ≤ hi) (v : Int) : lo ≤ clamp lo hi v ∧ clamp lo hi v ≤ hi := by
  unfold clamp; split
  · omega
  · split <;> omega

theorem clamp_eq_max_min {lo hi : Int} (h : lo ≤ hi) (v : Int) : clamp lo hi v = max lo (min hi v) := by
  unfold clamp; split
  · omega
  · split <;> omega

theorem trimAfter_between (trim : Int) (target depth G stepMax : Nat) :
    -Config.trimMax ≤ trimAfter trim target depth G stepMax ∧ trimAfter trim target depth G stepMax ≤ Config.trimMax :=
  clamp_between (by decide) _

theorem claimCall_some {d Dmin R c : Nat} (h : claimCall d Dmin R = some c) : c = min d R ∧ Dmin ≤ c := by
  unfold claimCall at h; split at h
  · next hd =>
    cases h
    exact ⟨rfl, hd⟩
  · simp at h

/-! ## The transmit queue -/

theorem insertTx_length (e : TxEntry) (q : List TxEntry) : (insertTx e q).length = q.length + 1 := by
  induction q with
  | nil => rfl
  | cons x xs ih => unfold insertTx; split <;> simp_all

theorem mem_insertTx {e x : TxEntry} {q : List TxEntry} : x ∈ insertTx e q ↔ x = e ∨ x ∈ q := by
  induction q with
  | nil => simp [insertTx]
  | cons y ys ih =>
    unfold insertTx; split
    · simp
    · simp only [List.mem_cons, ih]; tauto

theorem placeTx_length (e : TxEntry) {q : List TxEntry} (h : q.length ≤ Config.txQueueSize) :
    (placeTx e q).1.length ≤ Config.txQueueSize := by
  unfold placeTx; split
  · rw [insertTx_length]; omega
  · split
    · split
      · simp only [insertTx_length, List.length_dropLast]
        have : 0 < Config.txQueueSize := by decide
        omega
      · exact h
    · exact h

theorem placeTx_room (e : TxEntry) {q : List TxEntry} (h : q.length < Config.txQueueSize) :
    placeTx e q = (insertTx e q, none) := by
  unfold placeTx; rw [if_pos h]

/-- A frame handed in to a queue with room takes its place and nothing else changes. -/
theorem handIn_room (s : State) (f : TxFrame) (h : s.lbi.queue.length < Config.txQueueSize) :
    s.handIn f = { s with lbi := { s.lbi with
      queue := insertTx { frame := f, age := s.lbi.nextAge } s.lbi.queue, nextAge := s.lbi.nextAge + 1 } } := by
  have hp : placeTx (s.newEntry f) s.nextAge.lbi.queue = (insertTx (s.newEntry f) s.lbi.queue, none) :=
    placeTx_room _ h
  unfold State.handIn State.enter State.lostAt State.arrive State.lostAt
  rw [hp]
  rfl

/-! ## Notices -/

theorem hasNotice_or (a b : Word) (n : Notice) : hasNotice (a ||| b) n = (hasNotice a n || hasNotice b n) := by
  simp [hasNotice]

theorem hasNotice_oneBit (n : Notice) : hasNotice (oneBit n.bit) n = true := by
  cases n <;> decide

theorem setLatched_has (s : State) (n : Notice) : hasNotice (s.setLatched n).sc.latched n = true := by
  simp [State.setLatched, hasNotice_or, hasNotice_oneBit]

/-- From `s` to `t` no notice is cleared. -/
def KeepsNotices (s t : State) : Prop :=
  ∀ n, hasNotice s.sc.latched n = true → hasNotice t.sc.latched n = true

theorem KeepsNotices.of_eq {s t : State} (h : t.sc.latched = s.sc.latched) : KeepsNotices s t :=
  fun n hn => by rw [h]; exact hn

theorem KeepsNotices.trans {s t u : State} (h₁ : KeepsNotices s t) (h₂ : KeepsNotices t u) : KeepsNotices s u :=
  fun n hn => h₂ n (h₁ n hn)

theorem setLatched_keepsNotices (s : State) (n : Notice) : KeepsNotices s (s.setLatched n) :=
  fun m hm => by simp [State.setLatched, hasNotice_or, hm]

theorem arrive_keepsNotices (s : State) (e : TxEntry) : KeepsNotices s (s.arrive e) :=
  .of_eq rfl

theorem latchTxDrop_keepsNotices (s : State) : KeepsNotices s s.latchTxDrop := by
  unfold State.latchTxDrop; split
  · exact .of_eq rfl
  · dsimp only; split
    · exact setLatched_keepsNotices s _
    · exact (setLatched_keepsNotices s _).trans (.of_eq rfl)

theorem enter_keepsNotices (s : State) (e : TxEntry) : KeepsNotices s (s.enter e) := by
  unfold State.enter; split
  · exact arrive_keepsNotices s e
  · rename_i f _
    refine ((arrive_keepsNotices s e).trans (latchTxDrop_keepsNotices _)).trans (.of_eq ?_)
    have hl : Piece.latched ∉ lossPieces (s.arrive e).latchTxDrop f := by
      unfold lossPieces; cases f <;> simp; split <;> simp
    exact (takeLoss_only _ f).keeps .latched hl

theorem nextAge_keepsNotices (s : State) : KeepsNotices s s.nextAge :=
  .of_eq rfl

theorem handIn_keepsNotices (s : State) (f : TxFrame) : KeepsNotices s (s.handIn f) :=
  (nextAge_keepsNotices s).trans (enter_keepsNotices s.nextAge (s.newEntry f))

theorem requestNotice_keepsNotices (s : State) : KeepsNotices s s.requestNotice := by
  unfold State.requestNotice; split
  · exact .of_eq rfl
  · exact handIn_keepsNotices s _

theorem latch_keepsNotices (s : State) (n : Notice) : KeepsNotices s (s.latch n) := by
  unfold State.latch; split
  · exact .of_eq rfl
  · split
    · exact setLatched_keepsNotices s n
    · exact (setLatched_keepsNotices s n).trans (requestNotice_keepsNotices _)

/-- A notice stands once it is latched. -/
theorem latch_has (s : State) (n : Notice) : hasNotice (s.latch n).sc.latched n = true := by
  unfold State.latch; split
  · assumption
  · split
    · exact setLatched_has s n
    · exact requestNotice_keepsNotices _ n (setLatched_has s n)

/-- Latching a notice moves no condition of a condition notice. -/
theorem latch_conditionHolds (s : State) (n m : Notice) : (s.latch n).conditionHolds m = s.conditionHolds m := by
  have h := latch_only s n
  have h₁ := h.keeps .addressConflict (by decide)
  have h₂ := h.keeps .roster (by decide)
  have h₃ := h.keeps .resetting (by decide)
  have h₄ := h.keeps .isolation (by decide)
  have h₅ := h.keeps .stlo (by decide)
  simp only [Piece.same] at h₁ h₂ h₃ h₄ h₅
  have ho : (s.latch n).overlaps = s.overlaps := by
    unfold State.overlaps State.addr State.fh State.hc; rw [h₃.2.2.2]
  cases m <;> simp [State.conditionHolds, State.headMapConflict, h₁, h₂, h₄, h₅, ho]

/-- Clearing notices is the clear with each condition notice checked once. -/
theorem clearNotices_eq (s : State) (w : Word) : s.clearNotices w =
    let t : State := { s with sc := { s.sc with latched := s.sc.latched &&& ~~~w } }
    [Notice.addressConflict, .headMapConflict, .busIsolated, .steamLow].foldl
      (fun u n => if hasNotice (s.sc.latched &&& w) n && s.conditionHolds n then u.latch n else u) t := by
  have hc : ∀ (b : Bool) (u : State) (n m : Notice),
      (if b = true then u.latch n else u).conditionHolds m = u.conditionHolds m := by
    intro b u n m; split
    · exact latch_conditionHolds u n m
    · rfl
  simp only [State.clearNotices, State.relatch, List.foldl_cons, List.foldl_nil, hc]
  rfl

/-! ## The cycle and the drive -/

/-- The head whose cycle has ended is as `Head.endCycle` leaves it. -/
theorem finish_head (s : State) (i : LocalHead) (o : JarOutcome) (torque angle : Nat) :
    (s.finish i o torque angle).head i = (s.head i).endCycle := by
  have h₁ := (reportJar_only s i true (s.jarReport i o torque angle)).keeps (.head i) (by simp [reporting])
  have h₂ := (handOffJar_only (s.reportJar i true (s.jarReport i o torque angle)) i o).keeps (.head i)
    (by simp [handOffPieces, reporting])
  unfold State.finish
  show (State.updHead _ i Head.endCycle).head i = _
  rw [State.head_updHead_same]
  exact congrArg Head.endCycle (h₂.trans h₁)

/-- A transaction of the head that is still on the link is not of a later cycle (R23). -/
theorem detachCycle_attached (s : State) (i : LocalHead) {t : Transaction}
    (h : (s.detachCycle i).dlc.current = some t) (hi : t.head = i) : t.attached = false := by
  cases hc : s.dlc.current with
  | none => simp [State.detachCycle, hc] at h
  | some t' =>
    simp only [State.detachCycle, hc, Option.map_some, Option.some.injEq] at h
    subst h
    by_cases hb : t'.head = i <;> simp_all

theorem finish_attached (s : State) (i : LocalHead) (o : JarOutcome) (torque angle : Nat) {t : Transaction}
    (h : (s.finish i o torque angle).dlc.current = some t) (hi : t.head = i) : t.attached = false :=
  detachCycle_attached _ i h hi

theorem request_notStop {d : DriveSlot} (h : d.pending ≠ some .stop) (r : DriveRequest) :
    d.request r = { d with pending := some r } := by
  unfold DriveSlot.request; split <;> simp_all

theorem request_stop (d : DriveSlot) : (d.request .stop).pending = some .stop := by
  unfold DriveSlot.request; split <;> simp_all

end Sys2Proof.Machine
end

