-- ==== Sys2Proof/Tests/Slice0.lean ====
section
/-!
SUPPORT. The model's own tests: the ill-formed commands, the worked cases of the spec, single commands on a small
station, and for every statement with hypotheses a state and operands that meet them, clause by clause.
-/
namespace Sys2Proof.Tests
open Sys2Proof Sys2Proof.Machine

set_option maxRecDepth 100000

/-! ## A small station -/

/-- A setup of 8 heads and 128 counts. -/
def parts : SetupParts :=
  { s0 := some { P := 8, E := 128, O := 3, C := 4, Hq := 40 }, s1 := some { aC := 3, aFs := 9, aS := 27 },
    s2 := some { aT := 30, aR := 42, Lmax := 6 }, s3 := some { Tcold := 1, Lv := 1, mask := 0 } }

/-- The profile of the worked cases (03, section 3.7), with Dmin 4. -/
def fullParts : ProfileParts :=
  { p0 := some { Vb := 3140, rho := 1320, Tref := 880, f := 2 }, p1 := some { B := 60, Dmin := 4, Dmax := 400, Kh := 40 },
    p2 := some { Kt := 96, Pext := 120, Tt := 220, Tmin := 180 },
    p3 := some { Tmax := 260, thetaMin := 90, speed := 300, G := 32 },
    p4 := some { target := 900, stepMax := 10, Nb := 3 } }

/-- A station of four heads, global heads 2 to 5, 10 s after power-on, in a mode. -/
def line (m : StationMode) : State :=
  let s := State.atPowerOn 10000000 { addr := 9, hcPins := 3, fhPins := 2 }
  let other (a : Address) (r : Role) (first count : Nat) : RosterEntry :=
    { addr := a, role := r, first := first, count := count, heard := .joined }
  { s with
    ttu := { s.ttu with x := 15, referenced := true, tPitch := 16000 },
    lbi := { s.lbi with receive := .idle },
    sc := { s.sc with
      mode := m, roster := s.sc.roster ++ [other 1 .panel 0 0, other 3 .filler 0 0, other 5 .detector 0 0,
        other 8 .capper 0 2],
      setupParts := parts, profiles := s.sc.profiles.set 0 fullParts, window := .passed, mask := 0 } }

/-- The station in RUNNING. -/
def running : State := line .running
/-- The station in STOPPED. -/
def stopped : State := line .stopped
/-- The station in JOG. -/
def jog : State := line .jog
/-- The station in JOINING, its setup held and its window passed. -/
def joining : State := line .joining

/-- A state with head 0 in a phase, changed as asked. -/
def phased (s : State) (p : Phase) (f : Head → Head := id) : State :=
  s.updHead 0 fun h => f { h with phase := p }

/-- A state with a TTU changed as asked. -/
def turned (s : State) (f : Ttu → Ttu) : State :=
  { s with ttu := f s.ttu }

/-- A state with head 0's claim in a state. -/
def claimed (s : State) (c : ClaimState) : State :=
  s.updClaim 0 fun k => { k with state := c }

/-- A state with a transaction of head 0 that ends now. -/
def linked (s : State) (r : DriveRequest) (attached : Bool) : State :=
  { s with dlc := { s.dlc with current := some { head := 0, request := r, attached := attached, endsAt := s.now } } }

/-- A state with a frame in flight. -/
def flying (s : State) (f : TxFrame) (won : Bool) : State :=
  { s with lbi := { s.lbi with inFlight := some { entry := { frame := f, age := 0 }, won := won }, nextAge := 1 } }

/-- `n` counter replies waiting in the transmit queue. -/
def waiting (s : State) (n : Nat) (f : TxFrame := .counterReply 0 0 0 0) : State :=
  { s with lbi := { s.lbi with
    queue := (List.range n).map fun k => { frame := f, age := k }, nextAge := n } }

/-- One entry of the awaiting-verdict table, capped a second ago at head 0. -/
def awaited (s : State) (n : Nat) : State :=
  { s with vu := { s.vu with awaiting := (List.range n).map fun k => {
      seq := k, head := 2, profile := 0, applied := 300, flags := 0, cappedAt := s.now - 1000000 } } }

/-- A state in a reset. -/
def inReset (s : State) (low : Bool) : State :=
  { s with sc := { s.sc with inReset := true, supplyLow := low } }

/-- The next state, where there is one. -/
def after (o : Host.Outcome State Fault Refusal) : Option State :=
  match o with
  | .next u => some u
  | .fault _ => none
  | .refused _ => none

/-- Sensors of all four heads. -/
def all : BitVec 4 := 15

/-! ## Ill-formed commands -/

theorem test_valid_frame_is_no_bad_frame :
    (Instr.badFrameReceived 0 ((TxFrame.drawEnd 5).asRead 8)).wellFormed = false := by decide

theorem test_owned_kind_is_no_unowned_frame : (Instr.unownedFrame 0 8 3 [5]).wellFormed = false := by decide

theorem test_unowned_frame_of_wrong_length : (Instr.unownedFrame 0 8 14 [5]).wellFormed = false := by decide

theorem test_unowned_frame_of_unknown_kind_too_long :
    (Instr.unownedFrame 0 8 25 (List.replicate 9 0)).wellFormed = false := by decide

theorem test_draw_entry_of_no_head : (Instr.drawEntryExpiry 0 8 256).wellFormed = false := by decide

/-! ## The worked cases of the spec -/

/-- The profile of section 3.7. -/
def worked : DwellProfile :=
  { Vb := 3140, rho := 1320, Tref := 880, B := 60, Kh := 40, Kt := 96, Pext := 120, Dmin := 40, Dmax := 400 }

/-- The infeed call of section 3.7 with trim −12. -/
def workedCall (m T : Nat) (missing purge : Bool) (trim : Int) (tPitch : Nat) : DwellResult :=
  infeedCall worked { mass := m, temp := T, recordMissing := missing, trim := trim, purgePending := purge,
                      tPitch := tPitch, window := 1800, pc := 450 }

/-- The word of some jar flags. -/
def flagsOf (l : List JarFlag) : Word := l.foldl setFlag 0

theorem test_dwell_case_1 : workedCall 3702 852 false false (-12) 200000 = { dwell := 342, window := 800, flags := 0 } := by
  decide

theorem test_dwell_case_2 :
    workedCall 3702 852 false false (-12) 62500 = { dwell := 250, window := 250, flags := flagsOf [.shortFlush] } := by
  decide

theorem test_dwell_case_3 :
    workedCall 3702 852 false true (-12) 200000
      = { dwell := 400, window := 800, flags := flagsOf [.purgeAdded, .dwellClamped] } := by decide

theorem test_dwell_case_4 :
    workedCall 2500 852 false false (-12) 200000
      = { dwell := 400, window := 800, flags := flagsOf [.headspaceHigh, .dwellClamped] }
    ∧ workedCall 4200 852 false false (-12) 62500 = { dwell := 132, window := 250, flags := flagsOf [.overfill] }
    ∧ (workedCall 3702 905 false false (-12) 200000).dwell = 258
    ∧ (workedCall 0 852 false false (-12) 200000).dwell = 400 := by decide

theorem test_dwell_cases_5_6_8 :
    workedCall 4200 905 false false (-200) 200000
      = { dwell := 40, window := 800, flags := flagsOf [.overfill, .dwellClamped] }
    ∧ workedCall 4144 880 true false (-12) 62500 = { dwell := 48, window := 250, flags := 0 }
    ∧ workedCall 3702 852 false false (-12) 4000000 = { dwell := 342, window := 65535, flags := 0 } := by decide

theorem test_claims_of_case_2 :
    claimCall 250 40 (travelTime 1800 62500 450) = some 250 ∧ claimCall 250 40 (travelTime 288 62500 450) = some 40
      ∧ claimCall 250 40 (travelTime 252 62500 450) = none := by decide

theorem test_torque_cases :
    torqueFlags 180 260 90 224 118 0 = 0 ∧ torqueFlags 180 260 90 171 180 0 = flagsOf [.underTorque]
      ∧ torqueFlags 180 260 90 275 104 0 = flagsOf [.overTorque]
      ∧ torqueFlags 180 260 90 231 62 0 = flagsOf [.crossThread]
      ∧ torqueFlags 180 260 90 268 40 0 = flagsOf [.overTorque, .crossThread]
      ∧ reportedTorque 0 268 = 53 ∧ reportedTorque (flagsOf [.driveFault]) 268 = 0 := by decide

theorem test_trim_steps :
    trimAfter (-12) 900 780 32 10 = -2 ∧ trimAfter (-2) 900 955 32 10 = -8 ∧ trimAfter (-8) 900 903 32 10 = -8
      ∧ trimAfter (-8) 900 412 32 10 = 2 ∧ trimAfter 2 900 0 32 10 = 12 ∧ trimAfter 195 900 0 32 10 = 200 := by decide

theorem test_drive_command_bytes :
    (DriveRequest.setup 220 300 180).command = [0x01, 0x37, 0x12, 0xC0, 0xB4, 0x42]
      ∧ DriveRequest.start.command = [0x02, 0, 0, 0, 0, 0xFE] := by decide

theorem test_frames_of_the_station :
    (TxFrame.drawClaim 5 2 342).payload = [5, 2, 0x01, 0x56]
      ∧ (TxFrame.join { first := 4, count := 4, cause := .pin, heard := .joined }).payload = [0x19, 4, 4]
      ∧ (wireBits 0 2 9 [5, 2, 0x01, 0x56]).take 18
          = [false, false, false, false, false, false, false, true, false, false, true, false, false, true, false, true,
             false, false] := by decide

theorem test_quadrature :
    classifyPair 0b00 0b10 = .forward ∧ classifyPair 0b10 0b00 = .reverse ∧ classifyPair 0b00 0b11 = .illegal
      ∧ classifyPair 0b01 0b00 = .forward := by decide

/-! ## Single commands -/

theorem test_jar_record_is_queued_for_its_head :
    (after (exec (.jarRecord 0 3 0x1234_00_00_0E76_0354) (turned running fun t => { t with x := 48 }))).map (·.rq)
      = some [] ∧
    (after (exec (.jarRecord 0 3 0x1234_00_00_0E76_0354) running)).map (·.rq)
      = some [{ seq := 0x1234, pocket := 0, head := 3, product := 0, mass := 3702, temp := 852, range := false }] := by
  decide

theorem test_own_echo_opens_the_valve :
    ((after (exec (.drawClaim 0 9 0x02020156)
      (flying (claimed (phased running .claiming) (.onBus true)) (.drawClaim 2 2 0x156) true))).map fun u =>
        ((u.head 0).phase, (u.head 0).valveOpen, (u.head 0).valveCloseAt, u.sdu.table.length))
      = some (.flushing, true, 10342000, 1) := by decide

theorem test_read_back_table :
    readBack true true true = .agrees ∧ readBack false false false = .agrees
      ∧ readBack true true false = .lostContention ∧ readBack false true false = .transmitError
      ∧ readBack true false true = .transmitError ∧ readBack false false true = .transmitError := by decide

theorem test_claim_is_on_bus_from_its_taking :
    ((claimed (waiting running 1 (.drawClaim 2 2 9)) .queued).contentionStart.claim 0).state = .onBus false
      ∧ (((claimed (waiting running 1 (.drawClaim 2 2 9)) .queued).contentionStart.contentionWon).claim 0).state = .onBus true
      ∧ (((claimed (waiting running 1 (.drawClaim 2 2 9)) .queued).contentionStart.lostContention 10 false).claim 0).state
          = .queued
      ∧ ((claimed (waiting running 1 (.drawClaim 2 2 9)) .queued).contentionStart.withdrawClaim 0).lbi.inFlight.isSome
          = true := by decide

theorem test_filter_of_the_steam_low_input :
    (running.stloFall 2000).sdu.stlo = .low ∧ (running.stloFall 1999).sdu.stlo = .high
      ∧ ((running.stloFall 2000).stloRise 2000).sdu.stlo = .low
      ∧ (((running.stloFall 2000).setNow 10002000).stloRise 2000).sdu.stlo = .high := by decide

theorem test_low_input_is_taken_after_the_join :
    (({ joining.stloFall 2000 with sc := { joining.sc with window := .passed } } : State).leaveJoining.sdu.stlo = .high)
      ∧ ({ joining.stloFall 2000 with sc := { joining.sc with window := .passed } } : State).leaveJoining.timers.any
          (fun x => x == (10000000, .stloSample)) = true := by decide

theorem test_start_of_an_ended_cycle_is_not_applied :
    ((linked (phased running .releasing) .start true).closeOut 0).dlc.current.map (·.attached) = some false
      ∧ (((((linked (phased running .releasing) .start true).closeOut 0).infeedPass 0 true).transactionComplete 0).head
          0).phase = .seated
      ∧ hasFlag (((((linked (phased running .releasing) .start true).closeOut 0).infeedPass 0 true).transactionComplete
          0).head 0).flags .driveFault = false := by decide

theorem test_cold_stop_after_the_pass_of_its_moment :
    ((((turned running fun t => { t with x := 31, coldStart := 9000000 }).updHead 0 fun h =>
        { h with purgePending := false }).forwardCount all all).coldStop.head 0).purgePending = true := by decide

theorem test_silence_timer_holds :
    ({ running with now := 99000000, lbi := { running.lbi with silenceStart := 0 } } : State).silenceTimer = 65535
      ∧ ({ running with lbi := { running.lbi with silenceStart := 9750001 } } : State).silenceTimer = 249 := by decide

theorem test_data_out_of_a_start :
    ((linked running .start true).dataOut.take 16, (linked running .start true).dataOut.drop 40)
      = ([false, false, false, false, false, false, true, false, false, false, false, false, false, false, false, false],
         [true, true, true, true, true, true, true, false])
    ∧ replyOfBits (payloadBits [0x33, 0x00, 0xE0, 0x00, 0x76, 0x77]) = 0x3300E0007677 := by decide

theorem test_time_closes_the_valve :
    ((phased running .flushing fun h =>
        { h with valveOpen := true, valveOpenedAt := 10000000, valveCloseAt := 10000100 }).elapse
      101).lbi.queue.map (·.frame) = [.drawEnd 2] := by decide

/-! ## Hypotheses that are met: steps, time, resets -/

theorem meets_StepRunsTheFrontCommand :
    ({ running with pending := [.stloRise ⟨0, 2000⟩, .supplyLow 1] } : State).pending
      = .stloRise ⟨0, 2000⟩ :: [.supplyLow 1] := by decide

theorem meets_EveryCommandCompletes : running.pending = [] := by decide

/-- Two timers that end one µs after the other. -/
def twoDue : State :=
  { running with sdu := { running.sdu with hold := some 10000002, relisten := some 10000003 } }

theorem meets_TimeTakesTheRowDueFirst :
    (∀ x ∈ running.timers, running.now + 1 ≤ x.1)
    ∧ earliest twoDue.timers = some (10000002, .holdExpiry)
    ∧ earliest (TimedEvent.holdExpiry.fire { twoDue with now := 10000002 }).timers = some (10000003, .relistenEnd)
    ∧ (inReset running true).sc.inReset = true ∧ running.sc.inReset = false := by decide

theorem meets_rows_taken_one_after_another :
    ∃ u, twoDue.takesRows (twoDue.now + 4) [(10000002, .holdExpiry), (10000003, .relistenEnd)] u :=
  ⟨_, by decide, by decide, by decide, by decide, rfl, by decide⟩

/-- A station at which every timer runs that can run after the join. -/
def timed : State :=
  let s := (claimed (awaited (phased running .flushing fun h => { h with valveOpen := true, valveCloseAt := 10000100 }) 1)
    (.retry 10005000)).updSlot 0 fun d => { d with pending := some .start, resultWait := some 10000300 }
  { s with
    ttu := { s.ttu with pitchCount := 1, pitchStart := 9000000 },
    sdu := { s.sdu with
      table := [{ src := 8, head := 1, units := 1, endAt := 10020000 }], hold := some 10000400,
      renewal := some 10005000, relisten := some 10050000, stloInput := .low },
    sc := { s.sc with window := .running 10000600 } }

theorem meets_every_timer_after_the_join :
    timed.timers = [(10000100, .valveClose 0), (10005000, .claimRetry 0), (10000300, .resultWait 0),
      (10020000, .drawExpiry 8 1), (10000400, .holdExpiry), (10005000, .holdRenewal), (10050000, .relistenEnd),
      (10000000, .stloSample), (10250000, .silence), (13000000, .pitchTimeout), (11000000, .coldStop),
      (10000000, .verdictExpiry), (10000000, .driveGrant), (10000600, .joinWindow)]
    ∧ (10000000, TimedEvent.coldStop) ∈ (turned running fun t => { t with coldFired := true, coldWaits := true }).timers
    ∧ (10000700, TimedEvent.joinTimer)
      ∈ ({ joining with sc := { joining.sc with joinTimer := some 10000700 } } : State).timers
    ∧ (10000000, TimedEvent.transactionEnd) ∈ (linked (phased running .torquing) .start true).timers := by decide

theorem test_unanswered_start_fails_after_200_us :
    let s := (phased running .torquing).updSlot 0 fun d => { d with pending := some .start }
    (s.elapse 200).dlc.current.isSome = true ∧ (s.elapse 201).dlc.current = none
      ∧ ((s.elapse 201).head 0).driveFailures = 1 ∧ hasFlag ((s.elapse 201).head 0).flags .driveFault = true := by decide

theorem meets_NoTimedRowIsLeftBehind : running.withinSizes ∧ (running.elapse 1).timers ≠ [] := by
  unfold State.withinSizes; decide

theorem meets_ResetEndSetsEveryRegister :
    (inReset running false).elapse 0 = inReset running false ∧ (inReset running false).sc.inReset = true
      ∧ (inReset running false).sc.supplyLow = false ∧ (inReset running true).sc.supplyLow = true := by decide

theorem meets_ResetsCutCyclesWithoutReport : (running.elapse 7).now = 10000007 := by decide

theorem meets_NothingActsOutOfPlace :
    ((inReset running true).elapse 0).sc.inReset = true ∧ actsInReset (.startBit 0) = false
      ∧ (running.elapse 0).sc.inReset = false ∧ (joining.elapse 0).joined = false := by decide

/-! ## Hypotheses that are met: turret -/

theorem meets_ForwardCountMovesMeasuresAndRaisesEvents :
    running.elapse 0 = running ∧ running.sc.inReset = false ∧ running.joined = true
      ∧ (turned running fun t => { t with referenced := false }).ttu.referenced = false
      ∧ running.ttu.referenced = true ∧ (turned running fun t => { t with lag := 1 }).ttu.lag = 1
      ∧ running.ttu.lag = 0 ∧ running.setupStatus = .valid
      ∧ (turned running fun t => { t with x := 32 }).eventHere 0 = some .infeed
      ∧ (turned running fun t => { t with x := 74 }).eventHere 0 = some .release
      ∧ (turned running fun t => { t with x := 31 }).ttu.x + 1 = 2 * running.pc
      ∧ (claimed (phased (turned running fun t => { t with x := 58, tPitch := 16000 }) .claiming) .queued).claimTooLate 0
          = true
      ∧ (claimed (phased (turned running fun t => { t with x := 55, tPitch := 16000 }) .claiming) .queued).claimTooLate 0
          = false := by decide

theorem meets_InfeedPassWithoutACycle :
    (running.head 0).phase = .idle ∧ (0 : BitVec 4).getLsbD 0 = false ∧ all.getLsbD 0 = true
      ∧ ((phased running .idle fun h => { h with bench := some .duds }).head 0).bench ≠ none
      ∧ (stopped.head 0).bench = none ∧ stopped.sc.mode = .stopped := by decide

theorem meets_InfeedPassBeginsACycle :
    (running.head 3).phase = .idle ∧ all.getLsbD 3 = true ∧ (running.head 3).bench = none ∧ running.sc.mode = .running
      ∧ jog.sc.mode = .jog
      ∧ ((after (exec (.forwardCount 0 all all) (turned running fun t => { t with x := 31 }))).map fun u =>
          ((u.head 0).phase, hasFlag (u.head 0).flags .recordMissing, u.counters.underruns))
        = some (.seated, true, 1) := by decide

theorem meets_CapPickTorqueStartAndRelease :
    ((phased running .seated).head 0).phase = .seated ∧ all.getLsbD 0 = true ∧ (0 : BitVec 4).getLsbD 0 = false
      ∧ ((phased running .pressed).head 0).phase = .pressed ∧ ((phased running .torquing).head 0).phase = .torquing := by
  decide

theorem meets_FlushStartAndSeat :
    ((phased running .capHeld fun h => { h with bench := some .drive }).head 0).bench ≠ none
      ∧ ((phased running .capHeld).head 0).bench = none ∧ ((phased running .capHeld).claim 0).state = .none
      ∧ ((claimed (phased running .claiming) (.retry 5)).claim 0).state = .retry 5
      ∧ ((claimed (phased running .capHeld) (.onBus true)).claim 0).state ≠ .none
      ∧ ((claimed (waiting (phased running .claiming) 1 (.drawClaim 2 1 9)) .queued).claim 0).state = .queued
      ∧ (claimed (waiting (phased running .flushing fun h => { h with valveOpen := true }) 1 (.drawClaim 2 1 9))
          .queued).head 0 = (phased running .flushing fun h => { h with valveOpen := true }).head 0
      ∧ ((phased running .flushing fun h => { h with valveOpen := true }).head 0).valveOpen = true
      ∧ ((phased running .flushing).head 0).valveOpen = false := by decide

theorem meets_FinishedCycleIsCountedReportedAndHandedOff :
    running.vu.awaiting.length < 128 ∧ (awaited running 127).vu.awaiting.length < 128
      ∧ 128 ≤ (awaited running 128).vu.awaiting.length
      ∧ ((none : Option JarRecord).map (·.seq)).getD 65535 = 65535
      ∧ ((some { seq := 65534, pocket := 0, head := 2, product := 0, mass := 0, temp := 0, range := false }
          : Option JarRecord).map (·.seq)).getD 65535 ≠ 65535 := by decide

theorem meets_CloseOutAndAbortEndACycle :
    ((phased running .releasing).head 0).phase = .releasing ∧ all.getLsbD 0 = true
      ∧ (((phased running .releasing fun h => { h with driveFailures := 2, bench := some .duds }).head 0).bench ≠ none)
      ∧ ((phased running .releasing fun h => { h with driveFailures := 2 }).head 0).bench = none
      ∧ running.vu.awaiting.length < 128
      ∧ ((claimed (phased running .claiming) (.retry 5)).claim 0).waits = true
      ∧ (((phased running .releasing).takeAngle 0 all all .infeed).head 0).phase = .seated
      ∧ ((phased running .releasing).head 0).driveFailures ≠ 2
      ∧ ((phased running .releasing fun h => { h with driveFailures := 2 }).head 0).driveFailures = 2
      ∧ (running.head 0).phase = .idle ∧ ((phased running .seated).claim 0).state = .none
      ∧ ((phased running .flushing fun h => { h with valveOpen := true }).head 0).valveOpen = true
      ∧ ((linked (phased running .torquing) .start true).dlc.current.any fun x => x.head == 0) = true := by decide

theorem meets_ReverseCountAndIllegalStepAbort :
    running.ttu.referenced = true ∧ running.ttu.dir = .forward
      ∧ (turned running fun t => { t with dir := .reverse }).ttu.dir = .reverse
      ∧ (∀ i, running.owns i = true → (running.head i).phase = .idle)
      ∧ (turned running fun t => { t with referenced := false, dir := .reverse }).ttu.referenced = false := by decide

theorem meets_ZeroMarkSetsChecksOrFaults :
    running.positionOnTurret ∧ (turned running fun t => { t with x := 0 }).ttu.x = 0
      ∧ (turned running fun t => { t with x := 1 }).ttu.x = 1 ∧ (turned running fun t => { t with x := 2 }).ttu.x = 2
      ∧ (turned running fun t => { t with x := 127 }).ttu.x + 1 = running.setup.E
      ∧ (turned running fun t => { t with x := 126 }).ttu.x + 2 = running.setup.E
      ∧ 2 < (turned running fun t => { t with x := 3 }).ttu.x
      ∧ (turned running fun t => { t with x := 125 }).ttu.x + 2 < running.setup.E := by
  unfold State.positionOnTurret; decide

/-- The station with a profile 0 whose Dmin no frame can carry. -/
def tooStrict : State :=
  let strict : ProfileParts := { fullParts with p1 := some ⟨60, 65536, 65536, 40⟩ }
  { running with sc := { running.sc with profiles := running.sc.profiles.set 0 strict } }

theorem meets_PitchTimeoutAndColdStop :
    running.joined = true ∧ 1 ≤ (turned running fun t => { t with pitchCount := 1 }).ttu.pitchCount
      ∧ (turned running fun t => { t with pitchStart := 6000000 }).ttu.pitchStart + 4000000 ≤ running.now
      ∧ running.now < (turned running fun t => { t with pitchStart := 6000001 }).ttu.pitchStart + 4000000
      ∧ (∀ i, (running.profile (running.head i).profile).Dmin ≤ 65535) ∧ running.ttu.pitchCount = 0
      ∧ (claimed (phased (turned tooStrict fun t => { t with tPitch := 4000000 }) .claiming) .queued).claimTooLate 0
          = true
      ∧ (turned running fun t => { t with coldWaits := true, coldFired := true }).ttu.coldWaits = true
      ∧ running.ttu.coldFired = false
      ∧ (turned running fun t => { t with coldStart := 9000000 }).ttu.coldStart + running.setup.Tcold * 1000000
          ≤ running.now
      ∧ running.now < (turned running fun t => { t with coldStart := 9000001 }).ttu.coldStart
          + running.setup.Tcold * 1000000 := by decide

/-! ## Hypotheses that are met: records, dwell, steam -/

theorem meets_JarRecordThatIsNotQueued :
    (running.elapse 0).reads = true ∧ running.heard 0 3 = { running with lbi := { running.lbi with silenceStart := 10000000 } }
      ∧ (joining.heard 0 3).joined = false ∧ (running.heard 0 1).roleOf 1 ≠ some .filler
      ∧ (running.heard 0 3).roleOf 3 = some .filler ∧ jarSeq 0xFFFF_00_00_0000_0000 = 65535
      ∧ jarPocket 0x0000_08_00_0000_0000 = running.setup.P ∧ jarSeq 0x0000_07_00_0000_0000 = 0
      ∧ jarPocket 0x0000_07_00_0000_0000 < running.setup.P ∧ (jarPocket 0x0000_06_00_0000_0000 + 3) % 8 = running.fh - 1
      ∧ (jarPocket 0x0000_07_00_0000_0000 + 3) % 8 = running.fh := by decide

/-- A record queued for head 2. -/
def record : JarRecord :=
  { seq := 5, pocket := 7, head := 2, product := 0, mass := 0, temp := 0, range := false }

theorem meets_JarRecordThatIsQueued :
    (running.heard 0 3).setupStatus = .valid ∧ running.inTime 2 ∧ (turned running fun t => { t with x := 64 }).inTime 2
      ∧ ¬ (turned running fun t => { t with x := 63 }).inTime 2 ∧ ¬ (turned running fun t => { t with x := 32 }).inTime 2
      ∧ ¬ (turned running fun t => { t with lag := 128 }).inTime 2 ∧ running.rq.length < 32
      ∧ 32 ≤ ({ running with rq := List.replicate 32 record } : State).rq.length := by
  unfold State.inTime; decide

theorem meets_holds : ({ running with rq := [record] } : State).holds 5 ∧ ¬ running.holds 5 := by
  unfold State.holds; decide

theorem meets_DwellArithmetic : worked.Dmin ≤ worked.Dmax ∧ running.setupStatus = .valid := by decide

theorem meets_PeerClaimIsAdmittedByTheTable :
    ((running.elapse 0).reads = true ∧ (running.elapse 0).isEcho 8 FrameKind.drawClaim.code (bytesOf 4 0x00010064) = false)
      ∧ (running.heard 0 8).roleOf 8 = some .capper ∧ (8 : Address) ≠ running.addr
      ∧ claimHead 0x07040064 = 7 ∧ claimUnits 0x07040064 = 4 ∧ running.sdu.hold = none
      ∧ claimUnits 0x07050064 = 5 ∧ claimHead 0x08010064 = running.setup.P := by decide

theorem meets_OwnClaimEchoOpensTheValveOrRetries :
    ((flying running (.drawClaim 2 2 9) true).elapse 0).reads = true
      ∧ (flying running (.drawClaim 2 2 9) true).isEcho 9 FrameKind.drawClaim.code (bytesOf 4 0x02020009) = true
      ∧ claimHead 0x02020009 = running.fh + 0 ∧ running.owns 0 = true ∧ running.setup.C / running.ncap = 2
      ∧ claimUnits 0x02050009 = running.setup.C + 1 ∧ (running.claim 0).admittedLocally = false
      ∧ ((phased running .claiming).head 0).claimsEnded = false := by decide

theorem meets_DrawEndAndEndTimeRemoveEntries :
    (running.elapse 0).isEcho 8 FrameKind.drawEnd.code (bytesOf 1 1) = false
      ∧ (flying running (.drawEnd 2) true).isEcho 9 FrameKind.drawEnd.code (bytesOf 1 2) = true
      ∧ (running.heard 0 8).roleOf 8 = some .capper ∧ joining.joined = false := by decide

theorem meets_HoldsAreSetStoppedAndRenewed :
    (running.elapse 0).isEcho 1 FrameKind.steamHold.code (bytesOf 2 40) = false
      ∧ (flying running (.steamHold 40) true).isEcho 9 FrameKind.steamHold.code (bytesOf 2 40) = true
      ∧ (∃ w ∈ (some 10000000 : Option Nat), w ≤ running.now) ∧ (∀ w ∈ (some 10000001 : Option Nat), running.now < w)
      ∧ running.setup.Hq = 40 := by decide

theorem meets_SteamLowFallsAndRises :
    running.sdu.stlo = .high ∧ running.sdu.stloInput = .high
      ∧ (running.stloFilter .low 2000).sdu.stloInput = .low ∧ running.stloFilter .low 1999 = running
      ∧ running.stloFilter .high 2000 = running
      ∧ ({ running with sdu := { running.sdu with stloSince := some 9998000 } } : State).stloSettled 2000 = true
      ∧ ({ running with sdu := { running.sdu with stloSince := some 9998001 } } : State).stloSettled 2000 = false
      ∧ ({ running with sdu := { running.sdu with stlo := .low } } : State).sdu.stlo = .low := by decide

theorem meets_SilenceIsolatesAndRelistenEnds :
    running.sdu.isolated = false
      ∧ ({ running with lbi := { running.lbi with silenceStart := 9750000 } } : State).silenceTimer = 250
      ∧ ({ running with lbi := { running.lbi with silenceStart := 9750001 } } : State).silenceTimer = 249 := by decide

theorem meets_FormedClaimIsQueuedOrDecidedInIsolation :
    running.owns 3 = true ∧ (running.profile 0).Dmin = 4
      ∧ min ((phased running .claiming fun h => { h with dwell := 3 }).head 0).dwell (running.remaining 0) = 3
      ∧ min ((phased running .claiming fun h => { h with dwell := 4 }).head 0).dwell (running.remaining 0) = 4
      ∧ running.sdu.isolated = false ∧ running.lbi.queue.length < 16
      ∧ ((waiting running 16 (.drawEnd 2)).lbi.queue.length = 16
          ∧ ∀ e ∈ (waiting running 16 (.drawEnd 2)).lbi.queue, e.frame.cls = 0)
      ∧ (((waiting (phased running .claiming fun h => { h with dwell := 50 }) 16 (.drawEnd 2)).formClaim 0).claim 0).state
          = .retry 10005000
      ∧ ({ running with sdu := { running.sdu with isolated := true } } : State).sdu.isolated = true
      ∧ (running.profile 0).f = max 1 (running.setup.C / running.ncap) := by decide

/-- The station ISOLATED, head 0 in CLAIMING with a dwell of 50 ms. -/
def isolated : State :=
  let s := phased running .claiming fun h => { h with dwell := 50 }
  { s with sdu := { s.sdu with isolated := true } }

theorem meets_FormedClaimInIsolation :
    ((isolated.formClaim 0).claim 0).admittedLocally = true
      ∧ (((waiting isolated 16 (.drawEnd 2)).formClaim 0).claim 0).state = .none
      ∧ (((waiting isolated 16 (.drawEnd 2)).formClaim 0).head 0).valveOpen = true
      ∧ (((waiting isolated 16).formClaim 0).claim 0).state = .queued
      ∧ ((waiting isolated 16).formClaim 0).lbi.queue.map (·.frame.kind)
          = .drawClaim :: .notice :: List.replicate 14 .counterReply := by decide

theorem meets_ValveCloseAndRetryWaitEndAtTheirTimes :
    ((phased running .flushing fun h => { h with valveOpen := true, valveCloseAt := 10000000 }).head 0).valveCloseAt
        ≤ running.now
      ∧ ((claimed running (.retry 10000000)).claim 0).state = .retry 10000000
      ∧ ((claimed running (.retry 10000001)).claim 0).state = .retry 10000001
      ∧ ((claimed running (.onBus false)).claim 0).state = .onBus false
      ∧ ((phased running .claiming).head 0).bench = none := by decide

/-! ## Hypotheses that are met: drive link and verdicts -/

theorem meets_GrantGoesToTheHighestKind :
    running.dlc.current = none ∧ (∀ i, (running.slot i).pending = none)
      ∧ (((running.request 1 .result).request 2 .start).slot 2).pending = some .start
      ∧ (((running.request 1 .result).request 2 .start).slot 1).pending = some .result
      ∧ (linked running .stop false).dlc.current ≠ none := by decide

theorem meets_ReplyIsJudgedByChecksumKindAndStatus :
    running.dlc.current = none ∧ (linked running .stop false).dlc.current ≠ none
      ∧ (payloadBits [0x33, 0x00, 0xE0, 0x00, 0x76, 0x77]).length = 48
      ∧ (DriveRequest.setup 1000 600 1440).command = [0x01, 0xFA, 0x25, 0x85, 0xA0, 0xBB]
      ∧ judgeReply .setup 0x1200000000EE = .success ∧ judgeReply .setup 0x1200000000EF = .failure
      ∧ judgeReply .start 0x1200000000EE = .failure ∧ judgeReply .result 0x3300E00076_77 = .success
      ∧ judgeReply .result 0x3200000000CE = .busy ∧ judgeReply .result 0x3400000000CC = .busy
      ∧ judgeReply .stop 0x4400000000BC = .failure ∧ judgeReply .stop 0x4600000000BA = .failure := by decide

theorem meets_CompletionMovesTheFailureCount :
    (∀ x ∈ running.dlc.current, running.now < x.endsAt)
      ∧ (∃ x ∈ (linked (phased running .seated) (.setup 1 2 3) true).dlc.current, x.endsAt ≤ running.now)
      ∧ judgeReply .setup 0 = .failure ∧ (running.head 0).driveFailures ≠ 2
      ∧ ((phased running .idle fun h => { h with driveFailures := 2 }).head 0).driveFailures = 2
      ∧ ((phased running .idle fun h => { h with driveFailures := 2, bench := some .duds }).head 0).bench ≠ none
      ∧ ((after (exec (.driveTransactionComplete 0 0)
          (linked (phased running .releasing fun h => { h with driveFailures := 2 }) .result true))).map fun u =>
            ((u.head 0).phase, (u.head 0).bench, u.lbi.queue.map (·.frame.kind)))
          = some (.idle, some .drive, [.jarReport, .headState, .notice]) := by decide

theorem meets_ResultEndsTheCycleOnTorqueAndAngle :
    (∃ x ∈ (linked (phased running .releasing) .result true).dlc.current,
        x.endsAt ≤ running.now ∧ x.attached = true ∧ x.request = .result)
      ∧ ((phased running .releasing).head 0).phase = .releasing ∧ (awaited running 127).vu.awaiting.length < 128
      ∧ 128 ≤ (awaited running 128).vu.awaiting.length ∧ (running.head 0).bound = none
      ∧ ((after (exec (.driveTransactionComplete 0 0x3300E0007677)
          (awaited (linked (phased running .releasing fun h => { h with bound := some record }) .result true) 128))).map
            fun u => (u.vu.awaiting.length, (u.vu.awaiting.getLast?.map (·.seq)), u.counters.evictions))
          = some (128, some 5, 1)
      ∧ judgeReply .result 0x3300E00076_77 = .success ∧ judgeReply .result 0 = .failure := by decide

theorem meets_BusyResultIsAskedAgain :
    (∃ x ∈ (linked (phased running .releasing) .result true).dlc.current, x.attached = true)
      ∧ judgeReply .result 0x3400000000CC = .busy
      ∧ (∃ w ∈ ((running.updSlot 0 fun d => { d with resultWait := some 10000000 }).slot 0).resultWait, w ≤ running.now)
      ∧ (∀ w ∈ (running.slot 0).resultWait, running.now < w) := by decide

theorem meets_RequestsReplaceAllButAStop :
    DriveSlot.empty.pending ≠ some .stop ∧ (DriveSlot.empty.request .stop).pending = some .stop
      ∧ ((DriveSlot.empty.request .stop).request .start).deferred = some .start
      ∧ (∀ i, (running.slot i).deferred = none) := by decide

theorem meets_VerdictThatIsNotMatched :
    (running.heard 0 5).roleOf 5 = some .detector ∧ verdictCapper 0x0000_09_02_00_0384 = running.addr.toNat
      ∧ verdictCapper 0x0000_08_02_00_0384 ≠ running.addr.toNat ∧ (∀ e ∈ running.vu.awaiting, e.seq ≠ 0)
      ∧ ((awaited running 1).vu.awaiting.find? fun e => e.seq == verdictSeq 0x0000_09_03_00_0384).isSome = true
      ∧ verdictHead 0x0000_09_03_00_0384 = 3 := by decide

theorem meets_MatchedVerdictCountsAndTeaches :
    ((awaited running 1).vu.awaiting.find? fun e => e.seq == verdictSeq 0x0000_09_02_01_0384)
        = some { seq := 0, head := 2, profile := 0, applied := 300, flags := 0, cappedAt := 9000000 }
      ∧ verdictHead 0x0000_09_02_01_0384 = running.fh + 0 ∧ verdictFinding 0x0000_09_02_01_0384 = .dud
      ∧ verdictFinding 0x0000_09_02_00_0384 = .good ∧ verdictFinding 0x0000_09_02_FF_0384 = .unreadable
      ∧ (running.profile 0).Nb = 3 := by decide

theorem meets_VerdictExpiryCountsNoVerdict :
    running.vu.awaiting = [] ∧ (awaited running 2).vu.awaiting.head?.isSome = true ∧ running.owns 0 = true
      ∧ 9000000 + running.setup.Lv * 1000000 ≤ running.now ∧ running.now < 9000001 + running.setup.Lv * 1000000
      ∧ running.vu.noVerdictRun + 1 < 16
      ∧ 16 ≤ ({ running with vu := { running.vu with noVerdictRun := 15 } } : State).vu.noVerdictRun + 1 := by decide

/-! ## Hypotheses that are met: panel, joining, notices -/

theorem meets_HeadReturnActsByMode :
    (running.heard 0 1).roleOf 1 = some .panel ∧ (running.heard 0 3).roleOf 3 ≠ some .panel
      ∧ returnTarget 0x0101 < running.fh ∧ returnTarget 0x0600 = running.fh + running.hc
      ∧ returnTarget 0x0200 = running.fh + 0 ∧ returnTarget 0xFF01 = 255 ∧ returnTrim 0xFF01 = true
      ∧ (running.heard 0 1).sc.mode = .running ∧ (stopped.heard 0 1).sc.mode = .stopped
      ∧ (jog.heard 0 1).sc.mode = .jog := by decide

theorem meets_LineModeSetsTheMode :
    (running.heard 0 1).joined = true ∧ (0 : BitVec 8).toNat < 1 ∧ 3 < (4 : BitVec 8).toNat ∧ (1 : BitVec 8).toNat = 1
      ∧ (3 : BitVec 8).toNat = 3 ∧ (stopped.heard 0 1).sc.mode = .stopped ∧ (jog.heard 0 1).sc.mode ≠ .running := by decide

theorem meets_LineClearEmptiesAndAppliesOptions :
    (stopped.heard 0 1).roleOf 1 = some .panel ∧ clearTarget 0x0903 = stopped.addr.toNat ∧ clearTarget 0xFF00 = 255
      ∧ clearTarget 0x0803 = 8 ∧ clearCounters 0xFF01 = true ∧ clearCounters 0xFF02 = false ∧ clearTrims 0xFF02 = true
      ∧ running.sc.mode ≠ .stopped ∧ running.sc.mode ≠ .jog := by decide

/-- The station in JOINING with a head-map conflict as the last thing against its join. -/
def conflicting : State :=
  { joining with sc := { joining.sc with roster := joining.sc.roster ++ [
      { addr := 10, role := .capper, first := 5, count := 4, heard := .joined }] } }

theorem meets_JoinBuildsTheRoster :
    ((running.elapse 0).reads = true ∧ (running.elapse 0).isEcho 10 FrameKind.join.code (bytesOf 3 0x090604) = false)
      ∧ joinRole 0x090604 = some .capper ∧ joinHeard 0x090604 = .joined ∧ joinFirst 0x090604 = running.fh + running.hc
      ∧ joinCount 0x090604 = 4 ∧ joinRole 0x060604 = none ∧ joinCount 0x090600 = 0 ∧ joinFirst 0x093D04 + 4 = 65
      ∧ running.rosterEntry 10 = none ∧ (running.rosterEntry 8).isSome = true
      ∧ joinFirst 0x090504 < running.fh + running.hc ∧ running.headMapConflict = false
      ∧ ((after (exec (.join 0 10 0x090504) running)).map fun u =>
          (u.headMapConflict, u.lbi.queue.map (·.frame.kind))) = some (true, [.join, .notice])
      ∧ conflicting.headMapConflict = true
      ∧ ((after (exec (.join 0 10 0x090604) conflicting)).map (·.sc.mode)) = some .stopped := by decide

theorem meets_OwnJoinsAndTheJoinWindow :
    State.reset.lbi.receive = .waitingIdle ∧ running.lbi.receive ≠ .waitingIdle ∧ joining.joined = false
      ∧ (∃ w ∈ ({ joining with sc := { joining.sc with joinTimer := some 10000000 } } : State).sc.joinTimer, w ≤ joining.now)
      ∧ (∀ w ∈ joining.sc.joinTimer, joining.now < w)
      ∧ (∃ f ∈ (flying joining (.join ⟨2, 4, .powerOn, .joining⟩) true).lbi.inFlight, f.entry.frame.kind = .join)
      ∧ (∀ f ∈ joining.lbi.inFlight, f.entry.frame.kind ≠ .join)
      ∧ (flying joining (.join ⟨2, 4, .powerOn, .joining⟩) true).isEcho 9 FrameKind.join.code (bytesOf 3 0x010204) = true := by
  decide

/-- The station in JOINING with its join window passing now. -/
def closing : State := { joining with sc := { joining.sc with window := .running 10000000 } }

theorem meets_JoinWindowPassLeavesJoining :
    closing.sc.window = .running 10000000 ∧ 10000000 ≤ closing.now ∧ joining.mayJoin
      ∧ ¬ ({ joining with sc := { joining.sc with addressConflict := true } } : State).mayJoin
      ∧ closing.sc.latched &&& closing.sc.mask &&& ~~~closing.setup.mask = 0
      ∧ ((after (exec (.joinWindowPass 0) { closing with sc := { closing.sc with latched := 0x0800, mask := 0xFFFF } })).map
          fun u => u.lbi.queue.map (·.frame.kind)) = some [.join, .notice]
      ∧ ((after (exec (.joinWindowPass 0) closing)).map fun u => (u.sc.mode, u.ttu.referenced, u.lbi.queue.length))
        = some (.stopped, false, 1) := by
  unfold State.mayJoin; decide

theorem meets_SetupAndProfilePartsAreTakenInJoining :
    (joining.heard 0 3).roleOf 3 ≠ some .panel ∧ (joining.heard 0 1).roleOf 1 = some .panel ∧ running.joined = true
      ∧ setupPart 0x0400000000000000 = 4 ∧ setupPart 0x0300000000000000 = 3
      ∧ profileNumber 0x8000000000000000 = 8 ∧ profilePart 0x7500000000000000 = 5 ∧ profilePart 0x7400000000000000 = 4
      ∧ ({ joining with sc := { joining.sc with setupParts := .absent } } : State).setupStatus = .incomplete
      ∧ ({ joining with sc := { joining.sc with setupParts := { parts with s2 := some ⟨20, 42, 6⟩ } } } : State).setupStatus
          = .invalid
      ∧ joining.setupStatus = .valid ∧ joining.sc.window = .passed ∧ joining.profileStatus 0 = .valid
      ∧ joining.profileStatus 1 = .incomplete ∧ joining.mayJoin ∧ ¬ closing.mayJoin
      ∧ ({ fullParts with p1 := some ⟨60, 5, 4, 40⟩ } : ProfileParts).status = .invalid
      ∧ ((after (exec (.profile 0 1 0x02600078_00DC_00B4) joining)).map (·.sc.mode)) = some .stopped
      ∧ ((after (exec (.profile 0 1 0x02600078_0105_00B4) closing)).map fun u => hasNotice u.sc.latched .configInvalid)
        = some true := by
  unfold State.mayJoin; decide

theorem meets_NoticeFramesClearAndMask :
    noticeTarget 0x09FFFF = running.addr.toNat ∧ noticeTarget 0xFFFFFF = 255 ∧ noticeTarget 0x08FFFF = 8
      ∧ noticeWord 0x090801 = 0x0801 ∧ (running.heard 0 1).roleOf 1 = some .panel
      ∧ ((after (exec (.noticeClear 0 1 0xFFFFFF) (running.latch .txDrop))).map (·.sc.latched)) = some 0 := by decide

/-- The station with its header low and STEAM_LOW latched, unmasked. -/
def steamShort : State :=
  { running with sdu := { running.sdu with stlo := .low }, sc := { running.sc with latched := 0x0100 } }

theorem meets_NoticesClearedAndLatched :
    hasNotice steamShort.sc.latched .steamLow = true ∧ hasNotice steamShort.sc.latched .txDrop = false
      ∧ hasNotice steamShort.sc.mask .txDrop = false
      ∧ hasNotice ({ running with sc := { running.sc with mask := 0x0800 } } : State).sc.mask .txDrop = true
      ∧ ((waiting running 1 (.notice none)).lbi.queue.any fun e => e.frame.isNotice) = true
      ∧ (steamShort.noticesCleared 0xFFFF).lbi.queue.map (·.frame.kind) = [.notice]
      ∧ ((waiting steamShort 1 (.notice none)).noticesCleared 0xFFFF).lbi.queue.length = 1
      ∧ ((waiting steamShort 16 (.drawEnd 2)).noticesCleared 0xFFFF).sc.latched = 0x0900
      ∧ (steamShort.noticesCleared 0x0800).lbi.queue = [] := by decide

theorem meets_CounterRequestIsAnswered :
    requestTarget 0x0900 = running.addr.toNat ∧ requestTarget 0xFF04 = 255 ∧ requestGroup 0xFF04 = 4
      ∧ requestGroup 0xFF10 = 16 + 4 * 0 ∧ requestGroup 0xFF1F = 19 + 4 * 3 ∧ requestGroup 0xFF05 = 5
      ∧ requestGroup 0xFF0F = 15 ∧ requestGroup 0xFF20 = 16 + 4 * running.hc := by decide

/-! ## Hypotheses that are met: line bus -/

theorem meets_ContentionTakesTheHeadFrame :
    (waiting running 1).lbi.queue.head?.isSome = true ∧ running.lbi.receive = .idle ∧ running.lbi.inFlight = none
      ∧ running.lbi.queue = [] ∧ (flying running (.notice none) false).lbi.inFlight.any (fun f => !f.won) = true
      ∧ (flying running (.notice none) true).lbi.inFlight.all (·.won) = true
      ∧ ((claimed running .queued).claim 0).state = .queued
      ∧ TxEntry.isClaimOf (running.fh + 0) { frame := .drawClaim 2 1 9, age := 0 } = true := by decide

theorem meets_FrameIsPutBackAtItsPlace :
    running.lbi.inFlight = none ∧ (flying (waiting running 15) (.drawEnd 2) false).lbi.queue.length < 16
      ∧ (flying (waiting running 16) (.drawEnd 2) false).lbi.queue.length = 16
      ∧ (wireBits 0 3 9 [2])[13]? = some true ∧ (wireBits 0 3 9 [2])[12]? = some false
      ∧ (wireBits 0 3 9 [2])[14]? = some false ∧ (wireBits 0 3 9 [2])[47]? = some true
      ∧ ((flying running (.drawEnd 2) false).lostContention 13 false).lbi.queue.length = 1
      ∧ (flying running (.drawEnd 2) false).lostContention 13 true = flying running (.drawEnd 2) false
      ∧ ((flying running (.drawEnd 2) false).transmitError 12 true).counters.badFrames = 1
      ∧ ((flying running (.drawEnd 2) true).transmitError 14 true).counters.badFrames = 1
      ∧ ((claimed running (.onBus true)).claim 0).state = .onBus true := by decide

/-- A JOIN's length field with a payload of one byte, cut short, its check wrong. -/
def noise : FrameRead :=
  { cls := 5, kind := 11, src := 8, len := 3, payload := [0], crc := 0, endDominant := false, cutShort := true }

theorem meets_BadFrameIsCountedOnce :
    running.reads = true ∧ frameBad noise = true ∧ frameBad ((TxFrame.drawEnd 5).asRead 8) = false
      ∧ running.lbi.errorCounted = false
      ∧ ({ running with lbi := { running.lbi with errorCounted := true } } : State).reads = true := by decide

theorem meets_EveryValidFrameIsHeard :
    running.reads = true ∧ running.isEcho 8 9 (List.replicate 7 0) = false
      ∧ (flying running (.notice none) true).isEcho 9 14 [0, 0, 0, 0] = true ∧ State.reset.reads = false
      ∧ running.addr = 9 := by decide

theorem meets_HandedInFrameTakesItsPlace :
    (waiting running 16).queueInOrder ∧ (waiting running 15).lbi.queue.length < 16
      ∧ (∀ x ∈ (waiting running 16).nextAge.lbi.queue, x.age ≠ 16) ∧ 16 < (waiting running 16).nextAge.lbi.nextAge
      ∧ (∀ x ∈ (waiting running 16 (.drawEnd 2)).lbi.queue, x.frame.cls ≤ (TxFrame.steamHold 40).cls)
      ∧ ((waiting running 16 (.drawEnd 2)).handIn (.steamHold 40)).sdu.renewal = some 10005000
      ∧ ((waiting running 16 (.drawEnd 2)).handIn (.steamHold 40)).counters.txDrops = 2
      ∧ ((waiting running 16).handIn (.steamHold 40)).lbi.queue.map (·.frame.kind)
          = .steamHold :: .notice :: List.replicate 14 .counterReply
      ∧ (((claimed (phased (waiting running 16 (.drawEnd 2)) .claiming) .queued).handIn (.drawClaim 2 1 9)).claim 0).state
          = .retry 10005000
      ∧ (((claimed (phased (waiting running 16 (.drawEnd 2)) .pressed) .queued).handIn (.drawClaim 2 1 9)).claim 0).state
          = .none
      ∧ running.localOf 6 = none
      ∧ (waiting running 16).lbi.queue.length = 16
      ∧ ((waiting running 16).lbi.queue.filter fun x => decide ((TxFrame.drawEnd 2).cls < x.frame.cls)) ≠ []
      ∧ ((waiting running 16 (.drawEnd 2)).lbi.queue.filter fun x => decide ((TxFrame.steamHold 40).cls < x.frame.cls)) = []
      ∧ hasNotice (running.setLatched .txDrop).sc.latched .txDrop = true := by
  unfold State.queueInOrder; decide

theorem meets_OwnFramesReadBack :
    bytesOf 4 (0xFFFFFFFF : BitVec 32).toNat = (TxFrame.drawClaim 255 255 65535).payload
      ∧ bytesOf 2 (0xFFFF : BitVec 16).toNat = (TxFrame.steamHold 65535).payload
      ∧ bytesOf 1 (0xFF : BitVec 8).toNat = (TxFrame.drawEnd 255).payload
      ∧ bytesOf 3 (0x19FFFF : BitVec 24).toNat = (TxFrame.join ⟨255, 255, .pin, .joined⟩).payload
      ∧ (TxFrame.jarReport ⟨65534, 63, .aborted, 7, 0x8000, 255, 4095⟩).payload
          = [0xFF, 0xFE, 0x80, 0x00, 0xFF, 0xBF, 0xFF, 0xFF] := by decide

/-! ## Hypotheses that are met: what every step keeps -/

theorem meets_step : (after (step { running with pending := [.forwardCount 10 all all] })).isSome = true := by decide

theorem meets_ListsCountersAndLearnedValuesStayInRange : running.withinSizes ∧ running.learnedInRange := by
  unfold State.withinSizes State.learnedInRange; decide

theorem meets_countersBounded : running.countersBounded := by
  unfold State.countersBounded Counters.bounded HeadCounters.bounded; decide

theorem meets_TransmitQueueStaysInOrder : (flying (waiting running 16) (.drawEnd 2) true).lbi.nextAge = 1
    ∧ (waiting running 16).queueInOrder := by
  unfold State.queueInOrder; decide

theorem meets_IdleHeadsStayEmptyAndValvesInFlush :
    (phased running .flushing fun h => { h with valveOpen := true }).idleHeadsEmpty
      ∧ (phased running .flushing fun h => { h with valveOpen := true }).valvesOnlyInFlush := by
  unfold State.idleHeadsEmpty State.valvesOnlyInFlush; decide

theorem meets_SequenceNumbersAreHeldOnce : (awaited running 3).seqsHeldOnce := by
  unfold State.seqsHeldOnce State.idleHeadsEmpty; decide

/-- The station with head 0's valve open for 300 ms on a claim admitted in isolation, its frame still waiting. -/
def flushing : State :=
  claimed ({ (phased (waiting running 1 (.drawClaim 2 2 300)) .flushing fun h => {
      h with valveOpen := true, valveOpenedAt := 10000000, valveCloseAt := 10300000 }).writeEntry 9 2 2 300 with
    pending := [.forwardCount 10 all all] }.updClaim 0 fun c => { c with admittedLocally := true }) .queued

theorem meets_queue : flushing.withinSizes ∧ flushing.queueInOrder := by
  unfold State.withinSizes State.queueInOrder; decide

theorem meets_heads : flushing.idleHeadsEmpty ∧ flushing.valvesOnlyInFlush ∧ flushing.drawsWithinHeader := by
  unfold State.idleHeadsEmpty State.valvesOnlyInFlush State.drawsWithinHeader; decide

theorem meets_claimFramesAgree : flushing.claimFramesAgree := by
  unfold State.claimFramesAgree; decide

theorem meets_drawEndsGoFirst : flushing.drawEndsGoFirst := by
  unfold State.drawEndsGoFirst State.drawEndPending; decide

theorem meets_valvesDrawn : flushing.valvesDrawn ∧ flushing.noDrawEndBehind := by
  unfold State.valvesDrawn State.noDrawEndBehind State.drawEndPending; decide

theorem meets_OwnDrawsStayWithinTheHeader :
    running.drawsWithinHeader ∧ joining.drawsWithinHeader ∧ flushing.joined = true ∧ flushing.openUnits = 2
      ∧ (after (step flushing)).isSome = true := by
  unfold State.drawsWithinHeader; decide

theorem meets_steamLawful : flushing.steamLawful :=
  ⟨meets_queue.1, meets_queue.2, meets_heads.1, meets_heads.2.1, meets_heads.2.2, meets_claimFramesAgree,
    meets_drawEndsGoFirst, meets_valvesDrawn.1⟩

theorem meets_TableEntriesStayLegal :
    running.tableKeysOnce ∧ running.recordsOwned ∧ (awaited running 3).awaitingInOrder := by
  unfold State.tableKeysOnce State.recordsOwned State.awaitingInOrder; decide

theorem meets_PositionStaysOnTheTurretAndIsolationInCapping :
    running.positionOnTurret
      ∧ ({ running with sdu := { running.sdu with isolated := true } } : State).isolatedOnlyWhenCapping := by
  unfold State.positionOnTurret State.isolatedOnlyWhenCapping; decide

theorem meets_deferredBehindStop : ((running.request 0 .stop).request 0 .start).deferredBehindStop := by
  unfold State.deferredBehindStop; decide

end Sys2Proof.Tests
end

section
/-!
What a command does at its moment, and how a condition is carried through a step: one function for the effects of all
commands, and the induction over the passing of time and the command packaged once.
-/
namespace Sys2Proof.Machine

/-- A command of the turret acts after the join only (R1). -/
def State.ifJoined (f : State → State) (s : State) : State :=
  if s.joined then f s else s

/-- The effect of a command at its moment, once the time before it has passed. -/
def commandEffect : Instr → State → State
  | .forwardCount _ jp cp => State.ifJoined fun t => t.forwardCount jp cp
  | .reverseCount _ => State.ifJoined State.reverseCount
  | .illegalQuadratureStep _ => State.ifJoined State.illegalStep
  | .zeroMark _ jp cp => State.ifJoined fun t => t.zeroMark jp cp
  | .pitchTimeout _ => State.pitchTimeout
  | .coldStop _ => State.coldStop
  | .valveCloseTime _ i => fun t => t.valveCloseTime i
  | .jarRecord _ src p => fun t => t.receive src fun u => u.takeRecord src p
  | .drawClaim _ src p => fun t => t.receiveClaim src p
  | .drawEnd _ src p => fun t => t.receiveDrawEnd src p
  | .steamHold _ src p => fun t => t.receiveHold src p
  | .claimRetry _ i => fun t => t.claimRetry i
  | .drawEntryExpiry _ src head => fun t => t.drawEntryExpiry src head
  | .holdExpiry _ => State.holdExpiry
  | .holdRenewal _ => State.holdRenewal
  | .stloFall r => fun t => t.stloFall r.held
  | .stloRise r => fun t => t.stloRise r.held
  | .silenceThreshold _ => State.silenceThreshold
  | .relistenEnd _ => State.relistenEnd
  | .driveGrant _ => State.driveGrant
  | .driveTransactionComplete _ reply => fun t => t.transactionComplete reply
  | .resultWaitExpiry _ i => fun t => t.resultWaitExpiry i
  | .verdict _ src p => fun t => t.receive src fun u => u.takeVerdict src p
  | .verdictExpiry _ => State.verdictExpiry
  | .headReturn _ src p => fun t => t.receive src fun u => u.takeReturn src p
  | .lineMode _ src p => fun t => t.receive src fun u => u.takeLineMode src p
  | .lineClear _ src p => fun t => t.receive src fun u => u.takeLineClear src p
  | .join _ src p => fun t => t.receiveJoin src p
  | .joinTimer _ => State.joinTimer
  | .joinWindowPass _ => State.joinWindowPass
  | .setup _ src p => fun t => t.receive src fun u => u.takeSetup src p
  | .profile _ src p => fun t => t.receive src fun u => u.takeProfile src p
  | .noticeClear _ src p => fun t => t.receive src fun u => u.takeNoticeClear src p
  | .noticeMaskSet _ src p => fun t => t.receive src fun u => u.takeMaskSet src p
  | .noticeMaskClear _ src p => fun t => t.receive src fun u => u.takeMaskClear src p
  | .counterRequest _ src p => fun t => t.receive src fun u => u.takeRequest src p
  | .frameContentionStart _ => State.contentionStart
  | .lostContention r => fun t => t.lostContention r.bit r.level
  | .transmitError r => fun t => t.transmitError r.bit r.level
  | .badFrameReceived _ r => fun t => t.badReceived r
  | .unownedFrame _ src kind payload => fun t => t.receiveUnowned src kind.toNat payload
  | .busIdleSeen _ => State.busIdleSeen
  | .supplyLow _ => State.supplyLow
  | .resetPin _ => State.resetPin
  | .resetEnd _ addr hcPins fh => fun t => t.resetEnd { addr := addr, hcPins := hcPins, fhPins := fh }
  | .startBit _ => State.startBit
  | .contentionWon _ => State.contentionWon
  | .joinEcho _ => State.receiveJoinEcho

/-- Every command but the reset commands acts on a live part at its moment. -/
theorem exec_eq_whenLive {c : Instr} (h : actsInReset c = false) (s : State) :
    exec c s = .next (s.whenLive (elapsedBefore c) (commandEffect c)) := by
  cases c <;> cases h <;> rfl

/-- A reset command acts at its moment, in a reset or out of it. -/
theorem exec_eq_of_actsInReset {c : Instr} (h : actsInReset c = true) (s : State) :
    exec c s = .next (commandEffect c (s.elapse (elapsedBefore c))) := by
  cases c <;> cases h <;> rfl

/-- A condition that does not speak of the waiting commands, and that the clock, every timed row and every command's
effect keep, is kept by every step. -/
theorem keptByStep_of_effects {P : State → Prop} (hpending : ∀ s q, P s → P { s with pending := q })
    (hnow : ∀ s t, s.now ≤ t → P s → P (s.setNow t)) (hfire : ∀ e s, P s → P (TimedEvent.fire e s))
    (heffect : ∀ c s, (actsInReset c = false → s.sc.inReset = false) → P s → P (commandEffect c s)) :
    KeptByStep P := by
  have helapse : ∀ s dt, P s → P (s.elapse dt) := fun s dt h => elapse_keeps hnow hfire h dt
  intro s t hs ht
  unfold step at ht
  split at ht
  · cases ht
    exact helapse s 1 hs
  · next c rest _ =>
    have h := helapse _ (elapsedBefore c) (hpending s rest hs)
    cases hc : actsInReset c with
    | true =>
      rw [exec_eq_of_actsInReset hc] at ht
      cases ht
      exact heffect c _ (by simp [hc]) h
    | false =>
      rw [exec_eq_whenLive hc] at ht
      cases ht
      exact whenLive_keeps h fun u hu hP => heffect c u (fun _ => hu) hP

/-- A condition kept by what every frame from another station does and by its owner is kept by its reception. -/
theorem receive_keeps {P : State → Prop} {s : State} {src : Address} {owner : State → State} (hs : P s)
    (hheard : P s → P (s.frameEnd.heardOther src)) (howner : ∀ t, P t → P (owner t)) : P (s.receive src owner) := by
  unfold State.receive
  split
  · exact howner _ (hheard hs)
  · exact hs

/-- As `receive_keeps`, for a kind of frame this station sends too. -/
theorem receiveOr_keeps {P : State → Prop} {s : State} {src : Address} {k : FrameKind} {b : List Byte}
    {echo owner : State → State} (hs : P s) (hheard : P s → P (s.frameEnd.heardOther src))
    (hcompleted : P s → P s.completed) (hecho : ∀ t, P t → P (echo t)) (howner : ∀ t, P t → P (owner t)) :
    P (s.receiveOr src k b echo owner) := by
  unfold State.receiveOr
  split
  · exact hecho _ (hcompleted hs)
  · exact receive_keeps hs hheard howner

end Sys2Proof.Machine
end

section
/-!
The position stays on the turret and the station stands ISOLATED in RUNNING and JOG only: what keeps both, and the
statement (O60).
-/
namespace Sys2Proof.Machine

/-! ## States that stand alike for the turret and the isolation -/

/-- What the position's range and the isolation's condition speak of. -/
def turretPieces : List Piece :=
  [.ttu, .mode, .setupParts, .resetting, .isolation]

/-- The law of this file: the position on the turret, and isolation in RUNNING and JOG only. -/
def State.turretLaw (s : State) : Prop :=
  s.positionOnTurret ∧ s.isolatedOnlyWhenCapping

/-- `t` stands as `s` does in mode, setup, straps and turret, and is ISOLATED only if `s` is. -/
structure SameTurret (s t : State) : Prop where
  mode : t.sc.mode = s.sc.mode
  setupParts : t.sc.setupParts = s.sc.setupParts
  straps : t.sc.straps = s.sc.straps
  ttu : t.ttu = s.ttu
  isolated : t.sdu.isolated = true → s.sdu.isolated = true

theorem SameTurret.of_only {ps : List Piece} {s t : State} (h : ChangesOnly ps s t)
    (hd : ∀ p ∈ turretPieces, p ∉ ps) : SameTurret s t where
  mode := h.keeps .mode (hd _ (by decide))
  setupParts := h.keeps .setupParts (hd _ (by decide))
  straps := (h.keeps .resetting (hd _ (by decide))).2.2.2
  ttu := h.keeps .ttu (hd _ (by decide))
  isolated hi := (h.keeps .isolation (hd _ (by decide))).1 ▸ hi

theorem SameTurret.turretLaw {s t : State} (h : SameTurret s t) (hs : s.turretLaw) : t.turretLaw := by
  obtain ⟨hm, hp, hst, ht, hi⟩ := h
  unfold State.turretLaw State.positionOnTurret State.isolatedOnlyWhenCapping State.setupStatus State.setup
    State.joined State.capping State.fh State.hc at *
  rw [hm, hp, hst, ht]
  exact ⟨hs.1, fun h => hs.2 (hi h)⟩

/-- What changes no piece the law speaks of keeps it. -/
theorem turretLaw_of_only {ps : List Piece} {s t : State} (hs : s.turretLaw) (h : ChangesOnly ps s t)
    (hd : ∀ p ∈ turretPieces, p ∉ ps) : t.turretLaw :=
  (SameTurret.of_only h hd).turretLaw hs

/-- As `turretLaw_of_only`, where the turret moves too, and by itself keeps the position and the lag in range. -/
theorem turretLaw_of_moved {ps : List Piece} {s t : State} (hs : s.turretLaw) (h : ChangesOnly ps s t)
    (hd : ∀ p ∈ turretPieces.erase .ttu, p ∉ ps)
    (ht : 0 < s.setup.E → s.ttu.x < s.setup.E → s.ttu.lag ≤ s.setup.E → t.ttu.x < s.setup.E ∧ t.ttu.lag ≤ s.setup.E) :
    t.turretLaw := by
  have hm := h.keeps .mode (hd _ (by decide))
  have hp := h.keeps .setupParts (hd _ (by decide))
  have hst := (h.keeps .resetting (hd _ (by decide))).2.2.2
  have hi := (h.keeps .isolation (hd _ (by decide))).1
  simp only [Piece.same] at hm hp
  have hset : t.setup = s.setup := by unfold State.setup; rw [hp]
  have hstat : t.setupStatus = s.setupStatus := by unfold State.setupStatus State.fh State.hc; rw [hp, hst]
  have hj : t.joined = s.joined := by unfold State.joined; rw [hm]
  have hc : t.capping = s.capping := by unfold State.capping; rw [hm]
  refine ⟨fun htj => ?_, fun hti => hc ▸ hs.2 (hi ▸ hti)⟩
  obtain ⟨hv, hx, hl⟩ := hs.1 (hj ▸ htj)
  rw [hset, hstat]
  exact ⟨hv, ht (by omega) hx hl⟩

/-! ## The counts and the marks -/

theorem State.setup_of_same {s t : State} (h : Piece.setupParts.same s t) : t.setup = s.setup := by
  unfold State.setup
  rw [h]

theorem eachOwned_raiseEvent_only (s : State) (jp cp : BitVec 4) :
    ChangesOnly (countPieces.erase .ttu) s (s.eachOwned (State.raiseEvent jp cp)) :=
  ChangesOnly.eachOwned s fun i t => (raiseEvent_only jp cp i t).widen (by fin_cases i <;> decide)

/-- The events of a crossing and the recheck of the claims leave the turret as the boundary left it. -/
theorem crossing_ttu (s : State) (jp cp : BitVec 4) :
    (s.crossing jp cp).ttu = if s.atBoundary then s.ttu.boundary s.now s.coldStopDue else s.ttu := by
  have h : ∀ t : State, ((t.eachOwned (State.raiseEvent jp cp)).recheckClaims).ttu = t.ttu := fun t =>
    ((recheckClaims_only _).keeps .ttu (by decide)).trans ((eachOwned_raiseEvent_only t jp cp).keeps .ttu (by decide))
  unfold State.crossing
  rw [h]
  split <;> rfl

theorem forwardMove_x (s : State) (jp cp : BitVec 4) : (s.forwardMove jp cp).ttu.x = (s.ttu.x + 1) % s.setup.E := by
  unfold State.forwardMove
  dsimp only
  split
  · rw [crossing_ttu]
    split <;> rfl
  · rfl

theorem forwardMove_lag (s : State) (jp cp : BitVec 4) : (s.forwardMove jp cp).ttu.lag = s.ttu.lag - 1 := by
  unfold State.forwardMove
  dsimp only
  split
  · rw [crossing_ttu]
    split <;> rfl
  · rfl

theorem forwardMove_turretLaw {s : State} (hs : s.turretLaw) (jp cp : BitVec 4) : (s.forwardMove jp cp).turretLaw :=
  turretLaw_of_moved hs (forwardMove_only s jp cp) (by decide) fun hE _ hl => by
    rw [forwardMove_x, forwardMove_lag]
    exact ⟨Nat.mod_lt _ hE, by omega⟩

theorem setDir_turretLaw {s : State} (hs : s.turretLaw) (d : Direction) : (s.setDir d).turretLaw :=
  turretLaw_of_moved hs (setDir_only s d) (by decide) fun _ hx hl => ⟨hx, hl⟩

theorem forwardCount_turretLaw {s : State} (hs : s.turretLaw) (jp cp : BitVec 4) : (s.forwardCount jp cp).turretLaw := by
  unfold State.forwardCount
  dsimp only
  split
  · exact forwardMove_turretLaw (setDir_turretLaw hs _) jp cp
  · exact setDir_turretLaw hs _

theorem abortAll_turretLaw {s : State} (hs : s.turretLaw) : s.abortAll.turretLaw :=
  turretLaw_of_only hs (abortAll_only s) (by decide)

theorem latch_turretLaw {s : State} (hs : s.turretLaw) (n : Notice) : (s.latch n).turretLaw :=
  turretLaw_of_only hs (latch_only s n) (by decide)

theorem reverseCount_turretLaw {s : State} (hs : s.turretLaw) : s.reverseCount.turretLaw := by
  have hb : ∀ {t : State} (d : Direction), t.turretLaw → (t.beginReverse d).turretLaw := fun d ht =>
    turretLaw_of_only ht (beginReverse_only _ d) (by decide)
  have hd := setDir_turretLaw hs .reverse
  unfold State.reverseCount
  dsimp only
  split
  · exact hb _ (abortAll_turretLaw (turretLaw_of_moved hd (setTtu_only _ _) (by decide) fun hE _ _ =>
      ⟨Nat.mod_lt _ hE, Nat.min_le_left _ _⟩))
  · exact hb _ hd

theorem illegalStep_turretLaw {s : State} (hs : s.turretLaw) : s.illegalStep.turretLaw := by
  unfold State.illegalStep
  dsimp only
  split
  · exact turretLaw_of_moved (abortAll_turretLaw (latch_turretLaw hs _)) (setTtu_only _ _) (by decide) fun _ hx _ =>
      ⟨hx, Nat.zero_le _⟩
  · exact latch_turretLaw hs _

theorem correctForward_turretLaw {s : State} (hs : s.turretLaw) (jp cp : BitVec 4) (n : Nat) :
    (State.correctForward jp cp n s).turretLaw := by
  induction n generalizing s with
  | zero => exact hs
  | succ n ih => exact ih (forwardMove_turretLaw hs jp cp)

theorem zeroMark_turretLaw {s : State} (hs : s.turretLaw) (jp cp : BitVec 4) : (s.zeroMark jp cp).turretLaw := by
  have hz : ∀ {t : State}, t.turretLaw → State.turretLaw { t with ttu := t.ttu.zeroed } := fun ht =>
    turretLaw_of_moved ht (setTtu_only _ _) (by decide) fun hE _ _ => ⟨hE, Nat.zero_le _⟩
  unfold State.zeroMark
  split
  · exact hz hs
  · split
    · exact hz (abortAll_turretLaw (latch_turretLaw hs _))
    · split
      · exact hs
      · split
        · exact turretLaw_of_moved hs (setTtu_only _ _) (by decide) fun hE _ _ => ⟨hE, Nat.min_le_left _ _⟩
        · exact correctForward_turretLaw hs jp cp _

theorem pitchTimeout_turretLaw {s : State} (hs : s.turretLaw) : s.pitchTimeout.turretLaw := by
  unfold State.pitchTimeout
  split
  · have ht : State.turretLaw { s with ttu := { s.ttu with tPitch := Config.turretStopped } } :=
      turretLaw_of_moved hs (setTtu_only s _) (by decide) fun _ hx hl => ⟨hx, hl⟩
    exact turretLaw_of_only ht (recheckClaims_only _) (by decide)
  · exact hs

/-- A cold stop sets its two marks in the turret and the purge of the owned heads. -/
theorem coldStop_ttu (s : State) :
    s.coldStop.ttu = if s.coldStopDue then { s.ttu with coldFired := true, coldWaits := false } else s.ttu := by
  unfold State.coldStop
  dsimp only
  split
  · exact (ChangesOnly.eachOwned (ps := ofHeads .head) _ fun i t =>
      (updHead_only t i _).widen (by fin_cases i <;> decide)).keeps .ttu (by decide)
  · rfl

theorem coldStop_turretLaw {s : State} (hs : s.turretLaw) : s.coldStop.turretLaw :=
  turretLaw_of_moved hs (coldStop_only s) (by decide) fun _ hx hl => by
    rw [coldStop_ttu]
    split
    · exact ⟨hx, hl⟩
    · exact ⟨hx, hl⟩

/-! ## The join, isolation and resets -/

/-- At the join the position is 0, the setup is valid and the station is not ISOLATED (R1, R64, R176). -/
theorem leaveJoining_turretLaw {s : State} (h : s.setupStatus = .valid) (hE : 0 < s.setup.E) :
    s.leaveJoining.turretLaw := by
  refine turretLaw_of_only (s := s.joinedState) ⟨fun _ => ⟨h, hE, Nat.zero_le _⟩, ?_⟩
    ((changeMask_only _ _).comp (sendJoin_only _)) (by decide)
  intro hi
  cases hi

/-- The setup that the blocks read is valid where its status says so (R173). -/
theorem setup_valid_of_status {s : State} (h : s.setupStatus = .valid) : s.setup.valid s.fh s.hc = true := by
  unfold State.setupStatus at h
  unfold State.setup
  cases hu : s.sc.setupParts.whole with
  | none => simp [hu] at h
  | some u => simpa [hu] using h

/-- A valid setup has at least 128 counts a revolution (R173). -/
theorem setup_E_of_valid {s : State} (h : s.setupStatus = .valid) : 128 ≤ s.setup.E := by
  have hv := setup_valid_of_status h
  simp only [Setup.valid, Bool.and_eq_true, decide_eq_true_eq] at hv
  omega

theorem joinConditions_valid {s : State} (h : s.joinConditions = true) : s.setupStatus = .valid := by
  simp only [State.joinConditions, Bool.and_eq_true, beq_iff_eq] at h
  exact h.1.1.1.2

theorem tryJoin_turretLaw {s : State} (hs : s.turretLaw) : s.tryJoin.turretLaw := by
  unfold State.tryJoin
  split
  · next h =>
    have hv := joinConditions_valid h
    exact leaveJoining_turretLaw hv (by have := setup_E_of_valid hv; omega)
  · exact hs

/-- Before the join the law says only that the station is not ISOLATED. -/
theorem turretLaw_of_joining {s : State} (hj : s.joined = false) (hi : s.sdu.isolated = false) : s.turretLaw :=
  ⟨fun h => by simp [hj] at h, fun h => by simp [hi] at h⟩

/-- A frame from another station ends isolation (R87). -/
theorem heardOther_isolated (s : State) (src : Address) : (s.heardOther src).sdu.isolated = false := by
  have h : ∀ t : State, t.endIsolation.sdu.isolated = false := fun t => by
    unfold State.endIsolation
    split
    · rfl
    · next h => simpa using h
  exact ((checkAddress_only _ src).keeps .isolation (by decide)).1.trans (h _)

/-- What every frame from another station does keeps the law, and leaves the station not ISOLATED. -/
theorem heard_turretLaw {s : State} (hs : s.turretLaw) (src : Address) : (s.frameEnd.heardOther src).turretLaw := by
  have h := (frameEnd_only s).comp (heardOther_only s.frameEnd src)
  refine SameTurret.turretLaw ⟨h.keeps .mode (by decide), h.keeps .setupParts (by decide),
    (h.keeps .resetting (by decide)).2.2.2, h.keeps .ttu (by decide), fun hi => ?_⟩ hs
  rw [heardOther_isolated] at hi
  cases hi

theorem silenceThreshold_turretLaw {s : State} (hs : s.turretLaw) : s.silenceThreshold.turretLaw := by
  unfold State.silenceThreshold
  split
  · next h =>
    simp only [State.silenceDue, Bool.and_eq_true] at h
    have ht : State.turretLaw { s with sdu := { s.sdu with isolated := true } } := ⟨hs.1, fun _ => h.1.1⟩
    exact latch_turretLaw ht _
  · exact hs

theorem relistenEnd_turretLaw {s : State} (hs : s.turretLaw) : s.relistenEnd.turretLaw := by
  unfold State.relistenEnd
  split
  · exact hs
  · exact hs

theorem joinWindowPass_turretLaw {s : State} (hs : s.turretLaw) : s.joinWindowPass.turretLaw := by
  unfold State.joinWindowPass
  split
  · exact tryJoin_turretLaw (turretLaw_of_only hs (setWindow_only s _) (by decide))
  · exact hs

/-- Taking up a SETUP part leaves a station in JOINING that is not ISOLATED; after the join it only latches a notice
(R173, R177). -/
theorem takeSetup_turretLaw {s : State} (hs : s.turretLaw) (src : Address) (p : BitVec 64) :
    (s.takeSetup src p).turretLaw := by
  unfold State.takeSetup
  split
  · exact hs
  · split
    · exact latch_turretLaw hs _
    · next hj =>
      split
      · exact hs
      · next u _ =>
        have hi : s.sdu.isolated = false := by
          by_contra hc
          have := hs.2 (by simpa using hc)
          simp only [State.joined, State.capping] at this hj
          cases hm : s.sc.mode <;> simp_all
        have ht : State.turretLaw { s with sc := { s.sc with setupParts := u } } :=
          turretLaw_of_joining (Bool.eq_false_iff.2 hj) hi
        exact tryJoin_turretLaw (turretLaw_of_only ht (latchInvalid_only _ _) (by decide))

theorem takeProfile_turretLaw {s : State} (hs : s.turretLaw) (src : Address) (p : BitVec 64) :
    (s.takeProfile src p).turretLaw := by
  unfold State.takeProfile
  dsimp only
  split
  · exact hs
  · split
    · exact latch_turretLaw hs _
    · split
      · exact hs
      · split
        · exact hs
        · exact tryJoin_turretLaw (turretLaw_of_only hs ((setProfiles_only s _).comp (latchInvalid_only _ _)) (by decide))

theorem takeJoin_turretLaw {s : State} (hs : s.turretLaw) (src : Address) (p : BitVec 24) :
    (s.takeJoin src p).turretLaw := by
  have hv : ∀ (t : State) (c d : Prop) [Decidable c] [Decidable d], t.turretLaw →
      State.turretLaw (if d then (if c then t.latch .headMapConflict else t).sendJoin
        else if c then t.latch .headMapConflict else t) := by
    intro t c d _ _ ht
    have hl : State.turretLaw (if c then t.latch .headMapConflict else t) := by
      split
      · exact latch_turretLaw ht _
      · exact ht
    split
    · exact turretLaw_of_only hl (sendJoin_only _) (by decide)
    · exact hl
  have hr : ∀ r, (s.enterRoster src r p).turretLaw := by
    intro r
    have ht := hv _ (State.overlaps { s with sc := { s.sc with roster := writeRoster (s.heardEntry src r p) s.sc.roster } }
      (s.heardEntry src r p) = true) (s.answersJoin src p = true)
      (turretLaw_of_only hs (setRoster_only s (writeRoster (s.heardEntry src r p) s.sc.roster)) (by decide))
    unfold State.enterRoster
    dsimp only
    split
    · exact tryJoin_turretLaw ht
    · exact ht
  unfold State.takeJoin
  split
  · exact hs
  · split
    · split
      · exact hr _
      · exact hs
    · exact hs

/-- A change of mode happens to a joined station, and finds it not ISOLATED: the LINE_MODE itself has ended isolation
(R87, R148). -/
theorem takeLineMode_turretLaw {s : State} (hs : s.turretLaw) (hi : s.sdu.isolated = false) (src : Address)
    (p : BitVec 8) : (s.takeLineMode src p).turretLaw := by
  have h := takeLineMode_only s src p
  have hi' : (s.takeLineMode src p).sdu.isolated = false := (h.keeps .isolation (by decide)).1.trans hi
  refine ⟨fun hj => ?_, fun hc => by simp [hi'] at hc⟩
  have hset := State.setup_of_same (h.keeps .setupParts (by decide))
  have hstat : (s.takeLineMode src p).setupStatus = s.setupStatus := by
    unfold State.setupStatus State.fh State.hc
    rw [h.keeps .setupParts (by decide), (h.keeps .resetting (by decide)).2.2.2]
  have hsj : s.joined = true := by
    by_contra hn
    have : s.takeLineMode src p = s := by simp [State.takeLineMode, State.fromPanel, hn]
    exact hn (this ▸ hj)
  rw [hset, hstat, h.keeps .ttu (by decide)]
  exact hs.1 hsj

theorem resetEnd_turretLaw {s : State} (hs : s.turretLaw) (straps : Straps) : (s.resetEnd straps).turretLaw := by
  unfold State.resetEnd
  split
  · exact hs
  · split
    · exact turretLaw_of_joining rfl rfl
    · exact turretLaw_of_joining rfl rfl

/-! ## Every step -/

theorem fire_turretLaw (e : TimedEvent) {s : State} (hs : s.turretLaw) : (e.fire s).turretLaw := by
  cases e with
  | pitchTimeout => exact pitchTimeout_turretLaw hs
  | coldStop => exact coldStop_turretLaw hs
  | valveClose i => exact turretLaw_of_only hs (valveCloseTime_only s i) (by simp [turretPieces, reporting])
  | claimRetry i => exact turretLaw_of_only hs (claimRetry_only s i) (by simp [turretPieces, claimPieces, reporting])
  | drawExpiry src g => exact turretLaw_of_only hs (drawEntryExpiry_only s src g) (by decide)
  | holdExpiry => exact turretLaw_of_only hs (holdExpiry_only s) (by decide)
  | holdRenewal => exact turretLaw_of_only hs (holdRenewal_only s) (by decide)
  | stloSample => exact turretLaw_of_only hs (stloSample_only s) (by decide)
  | silence => exact silenceThreshold_turretLaw hs
  | relistenEnd => exact relistenEnd_turretLaw hs
  | transactionEnd => exact turretLaw_of_only hs (transactionComplete_only s _) (by decide)
  | driveGrant => exact turretLaw_of_only hs (driveGrant_only s) (by decide)
  | resultWait i => exact turretLaw_of_only hs (resultWaitExpiry_only s i) (by simp [turretPieces])
  | verdictExpiry => exact turretLaw_of_only hs (verdictExpiry_only s) (by decide)
  | joinTimer => exact turretLaw_of_only hs (joinTimer_only s) (by decide)
  | joinWindow => exact joinWindowPass_turretLaw hs

theorem ifJoined_turretLaw {s : State} {f : State → State} (hs : s.turretLaw) (hf : s.turretLaw → (f s).turretLaw) :
    (s.ifJoined f).turretLaw := by
  unfold State.ifJoined
  split
  · exact hf hs
  · exact hs

theorem completed_turretLaw {s : State} (hs : s.turretLaw) : s.completed.turretLaw :=
  turretLaw_of_only hs (completed_only s) (by decide)

/-- The reception of a frame whose owner changes nothing the law speaks of. -/
theorem receive_turretLaw {ps : List Piece} {s : State} (src : Address) (owner : State → State) (hs : s.turretLaw)
    (ho : ∀ t, ChangesOnly ps t (owner t)) (hd : ∀ p ∈ turretPieces, p ∉ ps) : (s.receive src owner).turretLaw :=
  receive_keeps hs (fun h => heard_turretLaw h src) fun t ht => turretLaw_of_only ht (ho t) hd

theorem commandEffect_turretLaw (c : Instr) {s : State} (hs : s.turretLaw) : (commandEffect c s).turretLaw := by
  have hheard := fun src (h : s.turretLaw) => heard_turretLaw h src
  cases c with
  | forwardCount dt jp cp => exact ifJoined_turretLaw hs fun h => forwardCount_turretLaw h jp cp
  | reverseCount dt => exact ifJoined_turretLaw hs reverseCount_turretLaw
  | illegalQuadratureStep dt => exact ifJoined_turretLaw hs illegalStep_turretLaw
  | zeroMark dt jp cp => exact ifJoined_turretLaw hs fun h => zeroMark_turretLaw h jp cp
  | pitchTimeout dt => exact pitchTimeout_turretLaw hs
  | coldStop dt => exact coldStop_turretLaw hs
  | valveCloseTime dt i => exact turretLaw_of_only hs (valveCloseTime_only s i) (by simp [turretPieces, reporting])
  | jarRecord dt src p => exact receive_turretLaw src (fun u => u.takeRecord src p) hs (takeRecord_only · src p) (by decide)
  | drawClaim dt src p =>
    exact receiveOr_keeps hs (hheard src) completed_turretLaw
      (fun t ht => turretLaw_of_only ht (claimEcho_only t p) (by decide))
      fun t ht => turretLaw_of_only ht (peerClaim_only t src p) (by decide)
  | drawEnd dt src p =>
    exact receiveOr_keeps (echo := fun t => t.drawEndEcho p.toNat) hs (hheard src) completed_turretLaw
      (fun t ht => turretLaw_of_only ht (drawEndEcho_only t p.toNat) (by decide))
      fun t ht => turretLaw_of_only ht (peerDrawEnd_only t src p.toNat) (by decide)
  | steamHold dt src p =>
    exact receiveOr_keeps hs (hheard src) completed_turretLaw
      (fun t ht => turretLaw_of_only ht (takeHold_only t .own p.toNat) (by decide))
      fun t ht => turretLaw_of_only ht (takeHold_only t .peer p.toNat) (by decide)
  | claimRetry dt i => exact turretLaw_of_only hs (claimRetry_only s i) (by simp [turretPieces, claimPieces, reporting])
  | drawEntryExpiry dt src head => exact turretLaw_of_only hs (drawEntryExpiry_only s src head) (by decide)
  | holdExpiry dt => exact turretLaw_of_only hs (holdExpiry_only s) (by decide)
  | holdRenewal dt => exact turretLaw_of_only hs (holdRenewal_only s) (by decide)
  | stloFall r => exact turretLaw_of_only hs (stloFall_only s r.held) (by decide)
  | stloRise r => exact turretLaw_of_only hs (stloRise_only s r.held) (by decide)
  | silenceThreshold dt => exact silenceThreshold_turretLaw hs
  | relistenEnd dt => exact relistenEnd_turretLaw hs
  | driveGrant dt => exact turretLaw_of_only hs (driveGrant_only s) (by decide)
  | driveTransactionComplete dt reply => exact turretLaw_of_only hs (transactionComplete_only s reply) (by decide)
  | resultWaitExpiry dt i => exact turretLaw_of_only hs (resultWaitExpiry_only s i) (by simp [turretPieces])
  | verdict dt src p => exact receive_turretLaw src (fun u => u.takeVerdict src p) hs (takeVerdict_only · src p) (by decide)
  | verdictExpiry dt => exact turretLaw_of_only hs (verdictExpiry_only s) (by decide)
  | headReturn dt src p => exact receive_turretLaw src (fun u => u.takeReturn src p) hs (takeReturn_only · src p) (by decide)
  | lineMode dt src p =>
    show State.turretLaw (if s.reads then _ else s)
    split
    · exact takeLineMode_turretLaw (heard_turretLaw hs src) (heardOther_isolated _ src) src p
    · exact hs
  | lineClear dt src p => exact receive_turretLaw src (fun u => u.takeLineClear src p) hs (takeLineClear_only · src p) (by decide)
  | join dt src p =>
    exact receiveOr_keeps hs (hheard src) completed_turretLaw
      (fun t ht => turretLaw_of_only ht (joinEcho_only t) (by decide)) fun t ht => takeJoin_turretLaw ht src p
  | joinTimer dt => exact turretLaw_of_only hs (joinTimer_only s) (by decide)
  | joinWindowPass dt => exact joinWindowPass_turretLaw hs
  | setup dt src p => exact receive_keeps hs (hheard src) fun t ht => takeSetup_turretLaw ht src p
  | profile dt src p => exact receive_keeps hs (hheard src) fun t ht => takeProfile_turretLaw ht src p
  | noticeClear dt src p => exact receive_turretLaw src (fun u => u.takeNoticeClear src p) hs (takeNoticeClear_only · src p) (by decide)
  | noticeMaskSet dt src p => exact receive_turretLaw src (fun u => u.takeMaskSet src p) hs (takeMaskSet_only · src p) (by decide)
  | noticeMaskClear dt src p => exact receive_turretLaw src (fun u => u.takeMaskClear src p) hs (takeMaskClear_only · src p) (by decide)
  | counterRequest dt src p => exact receive_turretLaw src (fun u => u.takeRequest src p) hs (takeRequest_only · src p) (by decide)
  | frameContentionStart dt => exact turretLaw_of_only hs (contentionStart_only s) (by decide)
  | lostContention r => exact turretLaw_of_only hs (lostContention_only s r.bit r.level) (by decide)
  | transmitError r => exact turretLaw_of_only hs (transmitError_only s r.bit r.level) (by decide)
  | badFrameReceived dt r => exact turretLaw_of_only hs (badReceived_only s r) (by decide)
  | unownedFrame dt src kind payload =>
    show State.turretLaw (if s.reads && s.isEcho src kind.toNat payload then s.completed else s.receive src id)
    split
    · exact completed_turretLaw hs
    · exact receive_keeps hs (hheard src) fun _ ht => ht
  | busIdleSeen dt => exact turretLaw_of_only hs (busIdleSeen_only s) (by decide)
  | supplyLow dt => exact hs
  | resetPin dt => exact hs
  | resetEnd dt addr hcPins fh => exact resetEnd_turretLaw hs _
  | startBit dt => exact turretLaw_of_only hs (startBit_only s) (by decide)
  | contentionWon dt => exact turretLaw_of_only hs (contentionWon_only s) (by decide)
  | joinEcho dt => exact turretLaw_of_only hs (receiveJoinEcho_only s) (by decide)

/-- Settles O60: the clock, every timed row and every command's effect keep the law. -/
theorem positionStaysOnTheTurretAndIsolationInCapping :
    Obligations.PositionStaysOnTheTurretAndIsolationInCapping :=
  keptByStep_of_effects (P := State.turretLaw) (fun _ _ h => h) (fun _ _ _ h => h) (fun e _ h => fire_turretLaw e h)
    fun c _ _ h => commandEffect_turretLaw c h

end Sys2Proof.Machine
end

section
/-!
Reading the shared operations: updates at one head composed, the bus side of a state and what its operations make of it,
and what withdrawals, reports and the end of a cycle leave at the head.
-/
namespace Sys2Proof

theorem PerHead.upd_upd {α : Type} (p : PerHead α) (i : LocalHead) (f g : α → α) :
    (p.upd i f).upd i g = p.upd i fun a => g (f a) := by
  fin_cases i <;> rfl

theorem PerHead.upd_congr {α : Type} {p : PerHead α} {i : LocalHead} {f g : α → α} (h : f (p.get i) = g (p.get i)) :
    p.upd i f = p.upd i g := by
  unfold PerHead.upd
  rw [h]

theorem PerHead.upd_id {α : Type} (p : PerHead α) (i : LocalHead) : (p.upd i fun a => a) = p := by
  fin_cases i <;> rfl

end Sys2Proof

namespace Sys2Proof.Machine

/-! ## Updates at one head -/

theorem State.updHead_updHead (s : State) (i : LocalHead) (f g : Head → Head) :
    (s.updHead i f).updHead i g = s.updHead i fun h => g (f h) :=
  congrArg (fun p => { s with heads := p }) (PerHead.upd_upd s.heads i f g)

theorem State.updHead_congr {s : State} {i : LocalHead} {f g : Head → Head} (h : f (s.head i) = g (s.head i)) :
    s.updHead i f = s.updHead i g :=
  congrArg (fun p => { s with heads := p }) (PerHead.upd_congr h)

theorem State.updHead_id (s : State) (i : LocalHead) : (s.updHead i fun h => h) = s :=
  congrArg (fun p => { s with heads := p }) (PerHead.upd_id s.heads i)

theorem State.updSlot_updSlot (s : State) (i : LocalHead) (f g : DriveSlot → DriveSlot) :
    (s.updSlot i f).updSlot i g = s.updSlot i fun d => g (f d) :=
  congrArg (fun p => { s with dlc := { s.dlc with slots := p } }) (PerHead.upd_upd s.dlc.slots i f g)

theorem State.updSlot_updHead (s : State) (i : LocalHead) (f : DriveSlot → DriveSlot) (g : Head → Head) :
    (s.updSlot i f).updHead i g = (s.updHead i g).updSlot i f :=
  rfl

/-- JOG is marked on the head's jar as `withJog` says (R113). -/
theorem markJog_eq (s : State) (i : LocalHead) :
    s.markJog i = s.updHead i fun h => { h with flags := s.withJog h.flags } := by
  unfold State.markJog State.withJog
  split
  · rfl
  · exact (State.updHead_id s i).symm

theorem seqOf_eq (r : Option JarRecord) : seqOf r = (r.map (·.seq)).getD 65535 := by
  cases r <;> rfl

/-! ## Heads that an operation leaves alone -/

theorem head_of_only {ps : List Piece} {s t : State} (h : ChangesOnly ps s t) (j : LocalHead) (hj : .head j ∉ ps) :
    t.head j = s.head j :=
  h.keeps (.head j) hj

@[simp] theorem head_updSlot (s : State) (i j : LocalHead) (f : DriveSlot → DriveSlot) :
    (s.updSlot i f).head j = s.head j :=
  rfl

@[simp] theorem head_updClaim (s : State) (i j : LocalHead) (f : Claim → Claim) : (s.updClaim i f).head j = s.head j :=
  rfl

@[simp] theorem head_removeClaimFrame (s : State) (i j : LocalHead) : (s.removeClaimFrame i).head j = s.head j :=
  rfl

@[simp] theorem head_request (s : State) (i j : LocalHead) (r : DriveRequest) : (s.request i r).head j = s.head j :=
  rfl

@[simp] theorem head_detach (s : State) (i j : LocalHead) (ks : List DriveKind) : (s.detach i ks).head j = s.head j :=
  rfl

@[simp] theorem head_withdraw (s : State) (i j : LocalHead) (k : DriveKind) : (s.withdraw i k).head j = s.head j :=
  rfl

/-- A hand-in changes the bus side, and what the SDU makes of a loss. -/
theorem handIn_any (s : State) (f : TxFrame) : ChangesOnly (reporting ++ .renewal :: ofHeads .claim) s (s.handIn f) :=
  (handIn_only s f).mono (List.append_subset.2
    ⟨List.subset_append_left _ _, List.subset_append_of_subset_right _ (lossPieces_sub s f)⟩)

@[simp] theorem head_handIn (s : State) (f : TxFrame) (j : LocalHead) : (s.handIn f).head j = s.head j :=
  head_of_only (handIn_any s f) j (by simp [reporting, ofHeads])

@[simp] theorem head_latch (s : State) (n : Notice) (j : LocalHead) : (s.latch n).head j = s.head j :=
  head_of_only (latch_only s n) j (by simp [reporting])

/-! ## The bus side -/

/-- `t` stands as `s` does in the Line Bus Interface, the count of TX drops and the notices with their mask: all that the
transmit queue and the latching of notices read and change. -/
structure SameBus (s t : State) : Prop where
  lbi : t.lbi = s.lbi
  txDrops : t.counters.txDrops = s.counters.txDrops
  latched : t.sc.latched = s.sc.latched
  mask : t.sc.mask = s.sc.mask

/-- The pieces that `SameBus` speaks of. -/
def busPieces : List Piece :=
  [.queue, .inFlight, .receive, .silence, .txDrops, .latched, .mask]

theorem SameBus.of_only {ps : List Piece} {s t : State} (h : ChangesOnly ps s t) (hd : ∀ p ∈ busPieces, p ∉ ps) :
    SameBus s t where
  lbi := by
    obtain ⟨hq, ha⟩ := h.keeps .queue (hd _ (by decide))
    obtain ⟨hr, he⟩ := h.keeps .receive (hd _ (by decide))
    have hf := h.keeps .inFlight (hd _ (by decide))
    have hs := h.keeps .silence (hd _ (by decide))
    simp only [Piece.same] at hf hs
    cases h₁ : t.lbi
    cases h₂ : s.lbi
    simp_all
  txDrops := h.keeps .txDrops (hd _ (by decide))
  latched := h.keeps .latched (hd _ (by decide))
  mask := h.keeps .mask (hd _ (by decide))

theorem SameBus.refl (s : State) : SameBus s s :=
  ⟨rfl, rfl, rfl, rfl⟩

theorem SameBus.trans {s t u : State} (h₁ : SameBus s t) (h₂ : SameBus t u) : SameBus s u :=
  ⟨h₂.lbi.trans h₁.lbi, h₂.txDrops.trans h₁.txDrops, h₂.latched.trans h₁.latched, h₂.mask.trans h₁.mask⟩

theorem SameBus.symm {s t : State} (h : SameBus s t) : SameBus t s :=
  ⟨h.lbi.symm, h.txDrops.symm, h.latched.symm, h.mask.symm⟩

theorem SameBus.busSideOf {s t : State} (h : SameBus s t) : s.busSideOf t :=
  ⟨h.lbi, h.txDrops, h.latched⟩

theorem SameBus.arrive {s t : State} (h : SameBus s t) (e : TxEntry) : SameBus (s.arrive e) (t.arrive e) where
  lbi := by simp [State.arrive, h.lbi]
  txDrops := by
    unfold State.arrive State.lostAt
    rw [h.lbi, h.txDrops]
  latched := h.latched
  mask := h.mask

theorem SameBus.setLatched {s t : State} (h : SameBus s t) (n : Notice) :
    SameBus (s.setLatched n) (t.setLatched n) where
  lbi := h.lbi
  txDrops := h.txDrops
  latched := by simp [h.latched]
  mask := h.mask

theorem SameBus.nextAge {s t : State} (h : SameBus s t) : SameBus s.nextAge t.nextAge where
  lbi := by simp [h.lbi]
  txDrops := h.txDrops
  latched := h.latched
  mask := h.mask

theorem SameBus.newEntry {s t : State} (h : SameBus s t) (f : TxFrame) : t.newEntry f = s.newEntry f := by
  simp [State.newEntry, h.lbi]

theorem SameBus.noticeWaits {s t : State} (h : SameBus s t) : t.noticeWaits = s.noticeWaits := by
  simp [State.noticeWaits, h.lbi]

theorem SameBus.latchTxDrop {s t : State} (h : SameBus s t) : SameBus s.latchTxDrop t.latchTxDrop := by
  have hl := h.setLatched .txDrop
  unfold State.latchTxDrop
  dsimp only
  rw [h.latched, h.mask, hl.noticeWaits, hl.newEntry]
  split
  · exact h
  · split
    · exact hl
    · exact hl.nextAge.arrive _

/-- What the SDU makes of a loss is not on the bus side (R74). -/
theorem takeLoss_sameBus (s : State) (f : TxFrame) : SameBus s (s.takeLoss f) :=
  .of_only ((takeLoss_only s f).mono (lossPieces_sub s f)) (by decide)

theorem SameBus.enter {s t : State} (h : SameBus s t) (e : TxEntry) : SameBus (s.enter e) (t.enter e) := by
  have hl : t.lostAt e = s.lostAt e := by simp [State.lostAt, h.lbi]
  unfold State.enter
  rw [hl]
  split
  · exact h.arrive e
  · exact (((takeLoss_sameBus _ _).symm).trans (h.arrive e).latchTxDrop).trans (takeLoss_sameBus _ _)

theorem SameBus.handIn {s t : State} (h : SameBus s t) (f : TxFrame) : SameBus (s.handIn f) (t.handIn f) := by
  unfold State.handIn
  rw [h.newEntry]
  exact h.nextAge.enter _

theorem SameBus.latch {s t : State} (h : SameBus s t) (n : Notice) : SameBus (s.latch n) (t.latch n) := by
  unfold State.latch State.requestNotice
  rw [h.latched, h.mask, (h.setLatched n).noticeWaits]
  split
  · exact h
  · split
    · exact h.setLatched n
    · split
      · exact h.setLatched n
      · exact (h.setLatched n).handIn _

/-- A frame handed in at a state that stands alike on the bus side is queued alike. -/
theorem SameBus.queues {s t u : State} (h : SameBus s t) {f : TxFrame} (hu : SameBus (t.handIn f) u) : s.queues f u :=
  ((h.handIn f).trans hu).busSideOf

/-! ## Withdrawals -/

theorem withdrawClaim_head (s : State) (i : LocalHead) :
    (s.withdrawClaim i).head i = { s.head i with claimsEnded := (s.head i).claimsEnded || (s.claim i).waits } := by
  unfold State.withdrawClaim Claim.waits
  split <;> simp [*, State.endClaims, State.head_updHead_same]

theorem withdrawClaim_claim (s : State) (i : LocalHead) :
    (s.withdrawClaim i).claim i = (s.claim i).afterWithdrawal := by
  unfold State.withdrawClaim Claim.afterWithdrawal Claim.waits
  split <;> simp only [*, Bool.false_eq_true, if_true, if_false]
  · exact State.claim_updClaim_same _ i _
  · exact State.claim_updClaim_same _ i _

/-- On the bus side a withdrawn claim leaves the queue without its frame (R73, R164). -/
theorem withdrawClaim_sameBus (s : State) (i : LocalHead) : SameBus (s.withoutClaimFrame i) (s.withdrawClaim i) := by
  unfold State.withdrawClaim State.withoutClaimFrame
  cases (s.claim i).state with
  | none | onBus => exact .refl _
  | queued | retry => exact ⟨rfl, rfl, rfl, rfl⟩

/-! A claim withdrawn after a change at its head alone: the claim and its frame are those of the state before. -/

section
variable {s m : State} {i : LocalHead} (hm : ChangesOnly [.head i] s m)
include hm

theorem withdrawClaim_head_after : (m.withdrawClaim i).head i =
    { m.head i with claimsEnded := (m.head i).claimsEnded || (s.claim i).waits } := by
  rw [withdrawClaim_head, show m.claim i = s.claim i from hm.keeps (.claim i) (by simp)]

theorem withdrawClaim_claim_after : (m.withdrawClaim i).claim i = (s.claim i).afterWithdrawal := by
  rw [withdrawClaim_claim, show m.claim i = s.claim i from hm.keeps (.claim i) (by simp)]

theorem withdrawClaim_sameBus_after : SameBus (s.withoutClaimFrame i) (m.withdrawClaim i) := by
  refine SameBus.trans ?_ (withdrawClaim_sameBus m i)
  have hb : SameBus s m := .of_only hm (by simp [busPieces])
  have hc : m.claim i = s.claim i := hm.keeps (.claim i) (by simp)
  have hfh : m.fh = s.fh := by
    unfold State.fh
    rw [(hm.keeps .resetting (by simp)).2.2.2]
  unfold State.withoutClaimFrame
  rw [hc, hfh]
  split
  · exact ⟨by simp [hb.lbi], hb.txDrops, hb.latched, hb.mask⟩
  · exact hb

theorem withdrawClaim_only_after : ChangesOnly [.head i, .claim i, .queue] s (m.withdrawClaim i) :=
  (hm.comp (withdrawClaim_only m i)).mono (by simp)

end

@[simp] theorem slot_detach (s : State) (i j : LocalHead) (ks : List DriveKind) : (s.detach i ks).slot j = s.slot j :=
  rfl

theorem slot_withdraw (s : State) (i : LocalHead) (k : DriveKind) : (s.withdraw i k).slot i = (s.slot i).withdraw k :=
  State.slot_updSlot_same s i _

/-- Detaching the head's own transaction comes to nothing more once its cycle ends. -/
@[simp] theorem currentDetached_detach (s : State) (i : LocalHead) (ks : List DriveKind) :
    (s.detach i ks).currentDetached i = s.currentDetached i := by
  unfold State.detach State.currentDetached
  dsimp only
  rw [Option.map_map]
  congr 1
  funext x
  by_cases hx : x.head = i
  · simp only [Function.comp, hx, true_and]
    split <;> simp [hx]
  · simp [hx]

theorem currentDetached_of_same {s t : State} (h : Piece.link.same s t) (i : LocalHead) :
    t.currentDetached i = s.currentDetached i := by
  unfold State.currentDetached
  rw [h]

theorem currentDetached_withdraw (s : State) (i : LocalHead) (k : DriveKind) :
    (s.withdraw i k).currentDetached i = s.currentDetached i :=
  currentDetached_detach _ i _

/-! ## The end of a cycle -/

theorem handOffJar_uncapped (s : State) (i : LocalHead) {o : JarOutcome} (h : o.capped = false) :
    s.handOffJar i o = s := by
  simp [State.handOffJar, h]

/-- A hand-off to a table with room is no more than the entry appended (R126). -/
theorem handOffJar_room_only (s : State) (i : LocalHead) (o : JarOutcome)
    (h : s.vu.awaiting.length < Config.awaitingSize) : ChangesOnly [.awaiting] s (s.handOffJar i o) := by
  unfold State.handOffJar State.handOff
  split
  · exact setAwaiting_only s _
  · exact ChangesOnly.refl _ _

theorem finish_slot (s : State) (i : LocalHead) (o : JarOutcome) (torque angle : Nat) (j : LocalHead) :
    (s.finish i o torque angle).slot j = s.slot j :=
  (finish_only s i o torque angle).keeps (.slot j) (by simp [finishPieces, handOffPieces, reporting])

theorem finish_claim (s : State) (i : LocalHead) (o : JarOutcome) (torque angle : Nat) (j : LocalHead) :
    (s.finish i o torque angle).claim j = s.claim j :=
  (finish_only s i o torque angle).keeps (.claim j) (by simp [finishPieces, handOffPieces, reporting])

theorem finish_phase (s : State) (i : LocalHead) (o : JarOutcome) (torque angle : Nat) :
    ((s.finish i o torque angle).head i).phase = .idle := by
  rw [finish_head]
  rfl

theorem detachCycle_current (s : State) (i : LocalHead) : (s.detachCycle i).dlc.current = s.currentDetached i := by
  unfold State.detachCycle State.currentDetached
  dsimp only
  congr 1
  funext x
  by_cases hx : x.head = i
  · simp [hx]
  · simp [hx, beq_eq_false_iff_ne.2 hx]

/-- The transaction of a head whose cycle has ended is DETACHED (R23). -/
theorem finish_current (s : State) (i : LocalHead) (o : JarOutcome) (torque angle : Nat) :
    (s.finish i o torque angle).dlc.current = s.currentDetached i := by
  have h := ((reportJar_only s i true (s.jarReport i o torque angle)).comp (handOffJar_only _ i o)).keeps .link
    (by simp [reporting, handOffPieces])
  rw [← currentDetached_of_same h]
  exact detachCycle_current _ i

/-- A cycle whose jar is not handed off, or is without an eviction, ends on the bus side with its report alone
(R118, R127). -/
theorem finish_sameBus (s : State) (i : LocalHead) (o : JarOutcome) (torque angle : Nat)
    (h : o.capped = false ∨ s.vu.awaiting.length < Config.awaitingSize) :
    SameBus (s.handIn (.jarReport (s.jarReport i o torque angle))) (s.finish i o torque angle) := by
  have hr : SameBus (s.handIn (.jarReport (s.jarReport i o torque angle)))
      (s.reportJar i true (s.jarReport i o torque angle)) :=
    (SameBus.of_only (updCounters_only s i _) (by simp [busPieces])).handIn _
  refine hr.trans (SameBus.trans ?_ (.of_only ((updHead_only _ i _).comp (detachCycle_only _ i)) (by simp [busPieces])))
  rcases h with h | h
  · rw [handOffJar_uncapped _ i h]
    exact .refl _
  · have hv := (reportJar_only s i true (s.jarReport i o torque angle)).keeps .awaiting (by simp [reporting])
    exact .of_only (handOffJar_room_only _ i o (by rw [hv]; exact h)) (by decide)

/-- A jar that is not capped leaves the awaiting-verdict table alone (R122). -/
theorem finish_uncapped_only (s : State) (i : LocalHead) {o : JarOutcome} (h : o.capped = false) (torque angle : Nat) :
    ChangesOnly ([.head i, .headCounts i, .link] ++ reporting) s (s.finish i o torque angle) := by
  unfold State.finish
  rw [handOffJar_uncapped _ i h]
  exact ((reportJar_only s i _ _).comp ((updHead_only _ i _).comp (detachCycle_only _ i))).mono (by simp [reporting])

/-- The report of the jar at a head with given contents. -/
theorem jarReport_eq {s w : State} {i : LocalHead} {h : Head} (hs : Piece.resetting.same s w) (hh : w.head i = h)
    (o : JarOutcome) (torque angle : Nat) : w.jarReport i o torque angle = {
      seq := (h.bound.map (·.seq)).getD 65535, head := s.fh + i.val, outcome := o, profile := h.profile,
      flags := h.flags, torque := torque, angle := angle } := by
  unfold State.jarReport
  rw [hh, seqOf_eq, globalHead_of_same hs]
  rfl

/-! ## The valve -/

/-- A valve that closes has been open to this moment, and no longer than to its valve-close time (R62, R75). -/
theorem closeValve_head {s : State} {i : LocalHead} {h : Head} {now : Nat} (hn : s.now = now) (hh : s.head i = h) :
    (s.closeValve i).head i = { h with
      valveOpen := false, applied := (min now h.valveCloseAt - h.valveOpenedAt) / 1000 } := by
  subst hn hh
  unfold State.closeValve
  rw [head_handIn, State.head_updHead_same]
  rfl

theorem closeValve_sameBus (s : State) (i : LocalHead) :
    SameBus (s.handIn (.drawEnd (s.globalHead i))) (s.closeValve i) :=
  (SameBus.of_only (updHead_only s i _) (by simp [busPieces])).handIn _

end Sys2Proof.Machine
end

section
/-!
The drive side of a cycle: cap pick, torque start and release in every phase (O11).
-/
namespace Sys2Proof.Machine

theorem capPick_cap {s : State} {i : LocalHead} (h : (s.head i).phase = .seated) :
    s.capPick i true
      = s.updHead i fun _ => { s.head i with phase := .capHeld, flags := s.withJog (s.head i).flags } := by
  unfold State.capPick State.setPhase
  rw [if_pos h, if_pos rfl, markJog_eq, State.updHead_updHead]
  exact State.updHead_congr rfl

/-- The state in which a cycle without a cap ends: flags set, its SETUP withdrawn (R17). -/
def State.noCapState (s : State) (i : LocalHead) : State :=
  ((s.markJog i).flag i .noCap).withdraw i .setup

theorem capPick_noCap {s : State} {i : LocalHead} (h : (s.head i).phase = .seated) :
    s.capPick i false = (s.noCapState i).finish i .noCap 0 0 := by
  unfold State.capPick
  rw [if_pos h]
  rfl

theorem noCapState_head (s : State) (i : LocalHead) :
    (s.noCapState i).head i = { s.head i with flags := setFlag (s.withJog (s.head i).flags) .noCap } := by
  simp [State.noCapState, State.flag, markJog_eq, State.head_updHead_same]

theorem noCapState_only (s : State) (i : LocalHead) :
    ChangesOnly [.head i, .slot i, .link] s (s.noCapState i) :=
  ((markJog_only s i).comp ((flag_only _ i _).comp (withdraw_only _ i _))).mono (by simp)

theorem noCapState_slot (s : State) (i : LocalHead) : (s.noCapState i).slot i = (s.slot i).withdraw .setup := by
  have h : ((s.markJog i).flag i .noCap).slot i = s.slot i :=
    ((markJog_only s i).comp (flag_only _ i _)).keeps (.slot i) (by simp)
  rw [State.noCapState, slot_withdraw, h]

theorem torqueStart_pressed {s : State} {i : LocalHead} (h : (s.head i).phase = .pressed) :
    s.torqueStart i = (s.updHead i fun _ => { s.head i with
        phase := .torquing,
        flags := if (s.head i).setupDone then s.withJog (s.head i).flags
          else setFlag (s.withJog (s.head i).flags) .driveLate }).updSlot i
      fun d => (if (s.head i).setupDone then d else d.withdraw .setup).request .start := by
  unfold State.torqueStart State.setPhase State.request State.driveLate State.flag
  rw [if_pos h, markJog_eq]
  cases (s.head i).setupDone with
  | true =>
    simp only [if_true, State.updSlot_updHead, State.updHead_updHead]
    exact congrArg (fun t : State => t.updSlot i _) (State.updHead_congr rfl)
  | false =>
    simp only [Bool.false_eq_true, if_false, State.updSlot_updHead, State.updHead_updHead, State.updSlot_updSlot]
    exact congrArg (fun t : State => t.updSlot i _) (State.updHead_congr rfl)

theorem isKind_start (r : Option DriveRequest) : isKind .start r = true ↔ r = some .start := by
  rcases r with _ | (_ | _ | _ | _) <;> simp [isKind, DriveRequest.kind]

theorem startWaits_iff (s : State) (i : LocalHead) :
    s.startWaits i = true ↔ (s.slot i).pending = some .start ∨ (s.slot i).deferred = some .start := by
  simp [State.startWaits, isKind_start]

theorem release_torquing {s : State} {i : LocalHead} (h : (s.head i).phase = .torquing) :
    s.release i = (s.updHead i fun _ => { s.head i with
        phase := .releasing,
        flags := if (s.slot i).pending = some .start ∨ (s.slot i).deferred = some .start
          then setFlag (s.withJog (s.head i).flags) .driveFault else s.withJog (s.head i).flags }).updSlot i
      fun d => d.request .result := by
  unfold State.release State.setPhase State.request State.flag
  rw [if_pos h, markJog_eq]
  simp only [startWaits_iff]
  split <;> simp only [State.updSlot_updHead, State.updHead_updHead] <;>
    exact congrArg (fun t : State => t.updSlot i _) (State.updHead_congr rfl)

/-- Settles O11: an equation of the event for each phase, read at every head and slot. -/
theorem capPickTorqueStartAndRelease : Obligations.CapPickTorqueStartAndRelease := by
  intro s i jp cp
  refine ⟨fun h hc => ?_, fun h hc => ?_, torqueStart_pressed, release_torquing, fun h => if_neg h, fun h => if_neg h,
    fun h => if_neg h⟩
  · show s.capPick i (sensor cp i) = _
    rw [show sensor cp i = true from hc, capPick_cap h]
  · have hu : s.takeAngle i jp cp .capPick = (s.noCapState i).finish i .noCap 0 0 := by
      rw [← capPick_noCap h, ← show sensor cp i = false from hc]
      rfl
    have hw := noCapState_only s i
    have hbus : SameBus s (s.noCapState i) := .of_only hw (by simp [busPieces])
    have hr := hbus.queues (finish_sameBus _ i .noCap 0 0 (.inl rfl))
    rw [jarReport_eq (hw.keeps .resetting (by simp)) (noCapState_head s i)] at hr
    rw [hu]
    refine ⟨finish_phase _ i _ _ _, ?_, ?_, hr, ?_⟩
    · rw [finish_slot, noCapState_slot]
    · rw [finish_current, State.noCapState, currentDetached_withdraw]
      exact currentDetached_of_same (((markJog_only s i).comp (flag_only _ i _)).keeps .link (by simp)) i
    · exact (hw.comp (finish_uncapped_only _ i rfl 0 0)).mono (by simp [reporting])

end Sys2Proof.Machine
end

section
/-!
The steam side of a cycle: flush start and seat in every phase (O12), the valve-close time and the retry wait (O28).
-/
namespace Sys2Proof.Machine

/-! ## Flush start -/

/-- A flush start in CAP_HELD begins with CLAIMING, JOG marked where the station jogs (R18, R113). -/
theorem markJog_setPhase (s : State) (i : LocalHead) (p : Phase) :
    (s.markJog i).setPhase i p = s.updHead i fun _ => { s.head i with phase := p, flags := s.withJog (s.head i).flags } := by
  unfold State.setPhase
  rw [markJog_eq, State.updHead_updHead]
  exact State.updHead_congr rfl

theorem flushStart_benched {s : State} {i : LocalHead} (h : (s.head i).phase = .capHeld) (hb : (s.head i).bench ≠ none) :
    s.flushStart i = s.updHead i fun _ =>
      { s.head i with phase := .claiming, flags := s.withJog (s.head i).flags, claimsEnded := true } := by
  unfold State.flushStart State.endClaims
  rw [if_pos h, if_pos (Option.isSome_iff_ne_none.2 hb), markJog_setPhase, State.updHead_updHead]

theorem flushStart_active {s : State} {i : LocalHead} (h : (s.head i).phase = .capHeld) (hb : (s.head i).bench = none) :
    s.flushStart i =
      let t := s.updHead i fun _ => { s.head i with phase := .claiming, flags := s.withJog (s.head i).flags }
      if (s.claim i).state = .none then t.formClaim i else t := by
  unfold State.flushStart
  rw [if_pos h, if_neg (by simp [hb]), markJog_setPhase]

/-! ## Seat -/

/-- The head's jar marked and its waiting claim withdrawn, as at a seat (R20, R73). -/
def State.seating (s : State) (i : LocalHead) : State :=
  (s.markJog i).withdrawClaim i

theorem seating_head (s : State) (i : LocalHead) : (s.seating i).head i = { s.head i with
    flags := s.withJog (s.head i).flags, claimsEnded := (s.head i).claimsEnded || (s.claim i).waits } := by
  rw [State.seating, withdrawClaim_head_after (markJog_only s i), markJog_eq, State.head_updHead_same]

theorem seating_claim (s : State) (i : LocalHead) : (s.seating i).claim i = (s.claim i).afterWithdrawal :=
  withdrawClaim_claim_after (markJog_only s i)

theorem seating_sameBus (s : State) (i : LocalHead) : SameBus (s.withoutClaimFrame i) (s.seating i) :=
  withdrawClaim_sameBus_after (markJog_only s i)

theorem seating_only (s : State) (i : LocalHead) : ChangesOnly [.head i, .claim i, .queue] s (s.seating i) :=
  withdrawClaim_only_after (markJog_only s i)

/-- A change at the head alone after the withdrawal of a seat: what the seat has changed, and the head. -/
theorem seating_then_head {s u : State} {i : LocalHead} {h : Head} (hu : u = (s.seating i).updHead i fun _ => h) :
    u.head i = h ∧ u.claim i = (s.claim i).afterWithdrawal ∧ u.lbi = (s.withoutClaimFrame i).lbi
      ∧ ChangesOnly [.head i, .claim i, .queue] s u := by
  subst hu
  refine ⟨State.head_updHead_same _ i _, ?_, (seating_sameBus s i).lbi,
    ((seating_only s i).comp (updHead_only _ i _)).mono (by simp)⟩
  rw [← seating_claim]
  rfl

theorem seat_claiming {s : State} {i : LocalHead} (h : (s.head i).phase = .claiming) :
    s.seat i = (s.seating i).updHead i fun _ => { s.head i with
      phase := .pressed, applied := 0, claimsEnded := (s.head i).claimsEnded || (s.claim i).waits,
      flags := setFlag (s.withJog (s.head i).flags) .noFlush } := by
  unfold State.seat
  rw [h]
  show ((s.seating i).flag i .noFlush).updHead i _ = _
  rw [State.flag, State.updHead_updHead]
  exact State.updHead_congr (by rw [seating_head])

theorem seat_flushing_closed {s : State} {i : LocalHead} (h : (s.head i).phase = .flushing)
    (hv : (s.head i).valveOpen = false) :
    s.seat i = (s.seating i).updHead i fun _ => { s.head i with
      phase := .pressed, claimsEnded := (s.head i).claimsEnded || (s.claim i).waits,
      flags := s.withJog (s.head i).flags } := by
  unfold State.seat
  rw [h, hv]
  show (s.seating i).updHead i _ = _
  exact State.updHead_congr (by rw [seating_head])

theorem seat_flushing_open {s : State} {i : LocalHead} (h : (s.head i).phase = .flushing)
    (hv : (s.head i).valveOpen = true) :
    s.seat i = (((s.seating i).flag i .shortFlush).closeValve i).setPhase i .pressed := by
  unfold State.seat
  rw [h, hv]
  rfl

theorem seat_flushing_open_head {s : State} {i : LocalHead} (h : (s.head i).phase = .flushing)
    (hv : (s.head i).valveOpen = true) :
    (s.seat i).head i = { s.head i with
      phase := .pressed, valveOpen := false,
      applied := (min s.now (s.head i).valveCloseAt - (s.head i).valveOpenedAt) / 1000,
      claimsEnded := (s.head i).claimsEnded || (s.claim i).waits,
      flags := setFlag (s.withJog (s.head i).flags) .shortFlush } := by
  have hh : ((s.seating i).flag i .shortFlush).head i = { s.head i with
      flags := setFlag (s.withJog (s.head i).flags) .shortFlush,
      claimsEnded := (s.head i).claimsEnded || (s.claim i).waits } := by
    rw [State.flag, State.head_updHead_same, seating_head]
  have hn : ((s.seating i).flag i .shortFlush).now = s.now := (seating_only s i).keeps .now (by simp)
  rw [seat_flushing_open h hv, State.setPhase, State.head_updHead_same, closeValve_head hn hh]

/-- Settles O12: the claims formed and withdrawn are read off the lemmas of the steam side. -/
theorem flushStartAndSeat : Obligations.FlushStartAndSeat := by
  intro s i jp cp
  refine ⟨flushStart_benched, fun h hb hc => ?_, fun h hb hc => ?_, fun h => if_neg h,
    fun h => seating_then_head (seat_claiming h), fun h hv => ?_,
    fun h hv => seating_then_head (seat_flushing_closed h hv), fun h₁ h₂ => ?_⟩
  · exact (flushStart_active h hb).trans (if_pos hc)
  · exact (flushStart_active h hb).trans (if_neg hc)
  · have hf := flag_only (s.seating i) i .shortFlush
    have hp := setPhase_only (((s.seating i).flag i .shortFlush).closeValve i) i .pressed
    have hall := ((seating_only s i).comp hf).comp ((closeValve_only _ i).comp hp)
    have hu : s.takeAngle i jp cp .seat = (((s.seating i).flag i .shortFlush).closeValve i).setPhase i .pressed :=
      seat_flushing_open h hv
    refine ⟨seat_flushing_open_head h hv, ?_, ?_, ?_⟩
    · rw [hu, ← seating_claim]
      exact (hf.comp ((closeValve_only _ i).comp hp)).keeps (.claim i) (by simp [reporting])
    · have hg := globalHead_of_same (((seating_only s i).comp hf).keeps .resetting (by simp)) i
      have hbus : SameBus (s.withoutClaimFrame i) ((s.seating i).flag i .shortFlush) :=
        (seating_sameBus s i).trans (.of_only hf (by simp [busPieces]))
      have hv := (closeValve_sameBus ((s.seating i).flag i .shortFlush) i).trans (.of_only hp (by simp [busPieces]))
      rw [hg] at hv
      rw [hu]
      exact hbus.queues hv
    · rw [hu]
      exact hall.mono (by simp [reporting])
  · show s.seat i = s
    unfold State.seat
    split
    · exact absurd ‹_› h₂
    · exact absurd ‹_› h₁
    all_goals rfl

/-! ## The valve-close time -/

theorem valveCloseDue_iff (s : State) (i : LocalHead) : s.valveCloseDue i = true ↔
    (s.head i).phase = .flushing ∧ (s.head i).valveOpen = true ∧ (s.head i).valveCloseAt ≤ s.now := by
  simp [State.valveCloseDue, and_assoc]

/-- At its valve-close time the valve has been open for all its time (R19, R75). -/
theorem valveCloseTime_head {s : State} {i : LocalHead} (h : s.valveCloseDue i = true) :
    (s.valveCloseTime i).head i = { s.head i with
      valveOpen := false, applied := ((s.head i).valveCloseAt - (s.head i).valveOpenedAt) / 1000,
      flags := s.withJog (s.head i).flags } := by
  have hh : (s.markJog i).head i = { s.head i with flags := s.withJog (s.head i).flags } := by
    rw [markJog_eq, State.head_updHead_same]
  have hn : (s.markJog i).now = s.now := (markJog_only s i).keeps .now (by simp)
  unfold State.valveCloseTime
  rw [if_pos h, closeValve_head hn hh, min_eq_right ((valveCloseDue_iff s i).1 h).2.2]

theorem valveCloseTime_queues {s : State} {i : LocalHead} (h : s.valveCloseDue i = true) :
    s.queues (.drawEnd (s.fh + i.val)) (s.valveCloseTime i) := by
  have hv := closeValve_sameBus (s.markJog i) i
  rw [globalHead_of_same ((markJog_only s i).keeps .resetting (by simp)) i] at hv
  unfold State.valveCloseTime
  rw [if_pos h]
  exact (SameBus.of_only (markJog_only s i) (by simp [busPieces])).queues hv

/-! ## The retry wait -/

theorem mayClaim_iff (s : State) (i : LocalHead) : s.mayClaim i = true ↔
    (s.head i).phase = .claiming ∧ (s.head i).bench = none ∧ (s.head i).claimsEnded = false := by
  simp [State.mayClaim, and_assoc]

/-- The end of a retry wait forms a claim where the head may claim, and none otherwise (R72). -/
theorem claimRetry_retry {s : State} {i : LocalHead} {w : Nat} (h : (s.claim i).state = .retry w) :
    s.claimRetry i = if w ≤ s.now then
      (if s.mayClaim i then (s.updClaim i fun _ => .clear).formClaim i else s.updClaim i fun _ => .clear) else s := by
  unfold State.claimRetry
  rw [h]

theorem claimRetry_noRetry {s : State} {i : LocalHead} (h : ∀ w, (s.claim i).state ≠ .retry w) : s.claimRetry i = s := by
  unfold State.claimRetry
  split
  · next w hw => exact absurd hw (h w)
  all_goals rfl

/-- Settles O28: a valve closes when it is due and a retry is made when its wait is over, else nothing changes. -/
theorem valveCloseAndRetryWaitEndAtTheirTimes : Obligations.ValveCloseAndRetryWaitEndAtTheirTimes := by
  constructor
  · rintro s t dt i rfl hlive
    have he : exec (.valveCloseTime dt i) s = .next ((s.elapse dt).valveCloseTime i) :=
      congrArg Host.Outcome.next (whenLive_live hlive _)
    refine ⟨fun hdue => ?_, fun hn => ?_⟩
    · have hd := (valveCloseDue_iff _ i).2 hdue
      exact ⟨_, he, valveCloseTime_head hd, valveCloseTime_queues hd, valveCloseTime_only _ i⟩
    · rw [he, State.valveCloseTime, if_neg fun hd => hn ((valveCloseDue_iff _ i).1 hd)]
  · rintro s t dt i rfl hlive
    have he : exec (.claimRetry dt i) s = .next ((s.elapse dt).claimRetry i) :=
      congrArg Host.Outcome.next (whenLive_live hlive _)
    rw [he]
    refine ⟨fun w hw hle hc => ?_, fun w hw hle hc => ?_, fun w hw hlt => ?_, fun hs => ?_⟩
    · rw [claimRetry_retry hw, if_pos hle, if_pos ((mayClaim_iff _ i).2 hc)]
    · rw [claimRetry_retry hw, if_pos hle, if_neg fun hm => hc ((mayClaim_iff _ i).1 hm)]
    · rw [claimRetry_retry hw, if_neg (by omega)]
    · rw [claimRetry_noRetry fun w hw => by rcases hs with h | h | ⟨_, h⟩ <;> simp [h] at hw]

end Sys2Proof.Machine
end

section
/-!
The events that cut a cycle short: a close-out at the infeed pass and an abort (O14), with the bench a close-out can bring.
-/
namespace Sys2Proof.Machine

/-! ## The bench -/

/-- An active head that a bench request reaches is benched as R140 says. -/
theorem benchHead_becomesBenched {s : State} {i : LocalHead} (h : (s.head i).bench = none) (r : BenchReason) :
    s.becomesBenched i r (s.benchHead i r) := by
  have hm := updHead_only s i fun x => x.benched r
  have hw := withdrawClaim_only_after hm
  have hl := latch_only ((s.updHead i fun x => x.benched r).withdrawClaim i) .headBenched
  have hu : s.benchHead i r
      = (((s.updHead i fun x => x.benched r).withdrawClaim i).latch .headBenched).sendHeadState i .bench :=
    if_neg (by simp [h])
  generalize hv : ((s.updHead i fun x => x.benched r).withdrawClaim i).latch .headBenched = v at hu hl
  have hvo := hw.comp hl
  have hhead : v.head i = { s.head i with
      bench := some r,
      claimsEnded := (s.head i).claimsEnded || decide ((s.head i).phase = .claiming) || (s.claim i).waits } := by
    rw [← hv, head_latch, withdrawClaim_head_after hm, State.head_updHead_same]
    rfl
  have hreport : v.headReport i .bench = {
      head := s.fh + i.val, bench := some r, trim := (s.learned i).trim, duds := (s.learned i).duds,
      lastDwell := (s.learned i).lastDwell, occasion := .bench } := by
    unfold State.headReport
    rw [globalHead_of_same (hvo.keeps .resetting (by simp [reporting])) i, hhead,
      show v.learned i = s.learned i from hvo.keeps (.learned i) (by simp [reporting])]
    rfl
  have hbus := ((withdrawClaim_sameBus_after hm).latch .headBenched)
  rw [hv] at hbus
  rw [hu, State.sendHeadState, hreport]
  refine ⟨by rw [head_handIn, hhead], ?_, hbus.queues (.refl _), handIn_keepsNotices _ _ _ ?_, ?_⟩
  · rw [← withdrawClaim_claim_after hm]
    exact (hl.comp (handIn_reporting v rfl)).keeps (.claim i) (by simp [reporting])
  · rw [← hv]
    exact latch_has _ _
  · exact (hvo.comp (handIn_reporting v rfl)).mono (by simp [reporting])

theorem benchHead_benched {s : State} {i : LocalHead} (h : (s.head i).bench ≠ none) (r : BenchReason) :
    s.benchHead i r = s :=
  if_pos (Option.isSome_iff_ne_none.2 h)

theorem benchHead_keepsNotices (s : State) (i : LocalHead) (r : BenchReason) : KeepsNotices s (s.benchHead i r) := by
  unfold State.benchHead
  split
  · exact .of_eq rfl
  · have h := withdrawClaim_only_after (updHead_only s i fun x => x.benched r)
    exact ((KeepsNotices.of_eq (h.keeps .latched (by simp))).trans (latch_keepsNotices _ _)).trans
      (handIn_keepsNotices _ _)

/-! ## The drive link is no part of a report -/

/-- The station with another drive link. -/
def State.withDlc (s : State) (d : Dlc) : State :=
  { s with dlc := d }

theorem apply_ite_withDlc (c : Prop) [Decidable c] (s t : State) (d : Dlc) :
    (if c then s else t).withDlc d = if c then s.withDlc d else t.withDlc d :=
  apply_ite (fun u : State => u.withDlc d) c s t

theorem latchTxDrop_withDlc (s : State) (d : Dlc) : (s.withDlc d).latchTxDrop = s.latchTxDrop.withDlc d := by
  simp only [State.latchTxDrop, apply_ite_withDlc]
  rfl

theorem takeLoss_withDlc (s : State) (f : TxFrame) (d : Dlc) : (s.withDlc d).takeLoss f = (s.takeLoss f).withDlc d := by
  cases f with
  | drawClaim g u e =>
    unfold State.takeLoss
    dsimp only
    rw [show (s.withDlc d).localOf g = s.localOf g from rfl]
    cases s.localOf g with
    | none => rfl
    | some i =>
      simp only [State.claimRefused, apply_ite_withDlc]
      rfl
  | _ => rfl

theorem enter_withDlc (s : State) (e : TxEntry) (d : Dlc) : (s.withDlc d).enter e = (s.enter e).withDlc d := by
  unfold State.enter
  rw [show (s.withDlc d).lostAt e = s.lostAt e from rfl]
  cases s.lostAt e with
  | none => rfl
  | some f =>
    show (((s.arrive e).withDlc d).latchTxDrop).takeLoss f = _
    rw [latchTxDrop_withDlc, takeLoss_withDlc]

theorem handIn_withDlc (s : State) (f : TxFrame) (d : Dlc) : (s.withDlc d).handIn f = (s.handIn f).withDlc d :=
  enter_withDlc s.nextAge (s.newEntry f) d

theorem latch_withDlc (s : State) (n : Notice) (d : Dlc) : (s.withDlc d).latch n = (s.latch n).withDlc d := by
  have h : ((s.setLatched n).withDlc d).requestNotice = (s.setLatched n).requestNotice.withDlc d := by
    simp only [State.requestNotice, apply_ite_withDlc, handIn_withDlc]
    rfl
  simp only [State.latch, apply_ite_withDlc, ← h]
  rfl

theorem handOffJar_withDlc (s : State) (i : LocalHead) (o : JarOutcome) (d : Dlc) :
    (s.withDlc d).handOffJar i o = (s.handOffJar i o).withDlc d := by
  simp only [State.handOffJar, State.handOff, apply_ite_withDlc, ← latch_withDlc]
  rfl

theorem reportJar_withDlc (s : State) (i : LocalHead) (seated : Bool) (r : JarReport) (d : Dlc) :
    (s.withDlc d).reportJar i seated r = (s.reportJar i seated r).withDlc d :=
  handIn_withDlc (s.updCounters i fun c => c.tally seated r) (.jarReport r) d

/-- The station when the report and the hand-off of an ending cycle are made, its head not yet IDLE (R118). -/
def State.reported (s : State) (i : LocalHead) (o : JarOutcome) (torque angle : Nat) : State :=
  (s.reportJar i true (s.jarReport i o torque angle)).handOffJar i o

theorem reported_withDlc (s : State) (i : LocalHead) (o : JarOutcome) (torque angle : Nat) (d : Dlc) :
    (s.withDlc d).reported i o torque angle = (s.reported i o torque angle).withDlc d := by
  unfold State.reported
  rw [show (s.withDlc d).jarReport i o torque angle = s.jarReport i o torque angle from rfl, reportJar_withDlc,
    handOffJar_withDlc]

theorem reported_dlc (s : State) (i : LocalHead) (o : JarOutcome) (torque angle : Nat) :
    (s.reported i o torque angle).dlc = s.dlc := by
  have h : s.reported i o torque angle = (s.reported i o torque angle).withDlc s.dlc :=
    reported_withDlc s i o torque angle s.dlc
  rw [h]
  rfl

theorem detachCycle_eq (s : State) (i : LocalHead) :
    s.detachCycle i = s.withDlc { s.dlc with current := s.currentDetached i } := by
  rw [← detachCycle_current]
  rfl

theorem finish_eq (s : State) (i : LocalHead) (o : JarOutcome) (torque angle : Nat) :
    s.finish i o torque angle = ((s.reported i o torque angle).updHead i Head.endCycle).withDlc
      { s.dlc with current := s.currentDetached i } := by
  have h := detachCycle_eq ((s.reported i o torque angle).updHead i Head.endCycle) i
  unfold State.currentDetached at h ⊢
  rw [State.updHead_dlc, reported_dlc] at h
  exact h

/-- Detaching the head's own transaction before its cycle ends makes no difference: the end detaches it (R23). -/
theorem finish_detach (s : State) (i : LocalHead) (ks : List DriveKind) (o : JarOutcome) (torque angle : Nat) :
    (s.detach i ks).finish i o torque angle = s.finish i o torque angle := by
  have h : (s.detach i ks).reported i o torque angle = (s.reported i o torque angle).withDlc (s.detach i ks).dlc :=
    reported_withDlc s i o torque angle _
  rw [finish_eq, finish_eq, h, currentDetached_detach]
  rfl

/-! ## The close-out -/

/-- The station as a close-out ends the cycle: the RESULT withdrawn, DRIVE_FAULT set (R14, R105). -/
def State.closing (s : State) (i : LocalHead) : State :=
  (s.updSlot i fun d => d.withdraw .result).updHead i fun _ =>
    { s.head i with flags := s.withJog (setFlag (s.head i).flags .driveFault) }

/-- The station with the cycle closed out and its failure counted, before what a third failure brings (R102). -/
def State.closedOut (s : State) (i : LocalHead) : State :=
  ((s.closing i).finish i .cappedSuspect 0 0).updHead i fun e =>
    { e with driveFailures := min 3 ((s.head i).driveFailures + 1) }

theorem closing_head (s : State) (i : LocalHead) :
    (s.closing i).head i = { s.head i with flags := s.withJog (setFlag (s.head i).flags .driveFault) } :=
  State.head_updHead_same _ i _

theorem closing_slot (s : State) (i : LocalHead) : (s.closing i).slot i = (s.slot i).withdraw .result :=
  State.slot_updSlot_same s i _

theorem closing_only (s : State) (i : LocalHead) : ChangesOnly [.head i, .slot i] s (s.closing i) :=
  ((updSlot_only s i _).comp (updHead_only _ i _)).mono (by simp)

theorem closing_finish_head (s : State) (i : LocalHead) :
    ((s.closing i).finish i .cappedSuspect 0 0).head i = (s.head i).endCycle := by
  rw [finish_head, closing_head]
  rfl

theorem closedOut_head (s : State) (i : LocalHead) : (s.closedOut i).head i =
    { (s.head i).endCycle with driveFailures := min 3 ((s.head i).driveFailures + 1) } := by
  rw [State.closedOut, State.head_updHead_same, closing_finish_head]

/-- A close-out ends the cycle at `closing` and counts a failure: that the RESULT withdrawn may be running is in the end
of the cycle. -/
theorem closeOut_eq_driveFailed (s : State) (i : LocalHead) :
    s.closeOut i = ((s.closing i).finish i .cappedSuspect 0 0).driveFailed i := by
  have hc : ((s.withdraw i .result).flag i .driveFault).markJog i = (s.closing i).detach i [.result] := by
    rw [markJog_eq, State.flag, State.updHead_updHead]
    exact State.updHead_congr (s := s.withdraw i .result) rfl
  rw [State.closeOut, hc, finish_detach]

/-- The failure of a close-out is counted at the head's old count, and the third latches DRIVE_FAULT and asks for the
bench (R14, R102, R103). -/
theorem closeOut_eq (s : State) (i : LocalHead) : s.closeOut i =
    if (s.head i).driveFailures = 2 then ((s.closedOut i).latch .driveFault).benchHead i .drive else s.closedOut i := by
  have hh := closing_finish_head s i
  have ht : ((s.closing i).finish i .cappedSuspect 0 0).updHead i
      (fun h => { h with driveFailures := min Config.failureMax (h.driveFailures + 1) }) = s.closedOut i :=
    State.updHead_congr (by rw [hh]; rfl)
  rw [closeOut_eq_driveFailed, State.driveFailed, hh, ht]
  rfl

theorem closeOut_counted {s : State} {i : LocalHead} (h : (s.head i).driveFailures ≠ 2) :
    s.closeOut i = s.closedOut i := by
  rw [closeOut_eq, if_neg h]

theorem closeOut_third_benched {s : State} {i : LocalHead} (h : (s.head i).driveFailures = 2)
    (hb : (s.head i).bench ≠ none) : s.closeOut i = (s.closedOut i).latch .driveFault := by
  rw [closeOut_eq, if_pos h, benchHead_benched]
  rw [head_latch, closedOut_head]
  exact hb

theorem closeOut_third_active {s : State} {i : LocalHead} (h : (s.head i).driveFailures = 2)
    (hb : (s.head i).bench = none) : ((s.closedOut i).latch .driveFault).becomesBenched i .drive (s.closeOut i) := by
  rw [closeOut_eq, if_pos h]
  refine benchHead_becomesBenched ?_ .drive
  rw [head_latch, closedOut_head]
  exact hb

/-- A third failure leaves the head benched and DRIVE_FAULT latched (R103). -/
theorem closeOut_third {s : State} {i : LocalHead} (h : (s.head i).driveFailures = 2) :
    ((s.closeOut i).head i).bench ≠ none ∧ hasNotice (s.closeOut i).sc.latched .driveFault = true := by
  constructor
  · by_cases hb : (s.head i).bench = none
    · rw [(closeOut_third_active h hb).1]
      simp
    · rw [closeOut_third_benched h hb, head_latch, closedOut_head]
      exact hb
  · rw [closeOut_eq, if_pos h]
    exact benchHead_keepsNotices _ _ _ _ (latch_has _ _)

theorem closeOut_phase (s : State) (i : LocalHead) : ((s.closeOut i).head i).phase = .idle := by
  have hi : ((s.closedOut i).head i).phase = .idle := by
    rw [closedOut_head]
    rfl
  by_cases h : (s.head i).driveFailures = 2
  · by_cases hb : (s.head i).bench = none
    · rw [(closeOut_third_active h hb).1, head_latch]
      exact hi
    · rw [closeOut_third_benched h hb, head_latch]
      exact hi
  · rw [closeOut_counted h]
    exact hi

theorem closeOut_slot (s : State) (i : LocalHead) : (s.closeOut i).slot i = (s.slot i).withdraw .result := by
  have hd := driveFailed_only ((s.closing i).finish i .cappedSuspect 0 0) i
  rw [closeOut_eq_driveFailed, ← closing_slot, ← finish_slot (s.closing i) i .cappedSuspect 0 0 i]
  exact hd.keeps (.slot i) (by simp [reporting])

theorem closeOut_current (s : State) (i : LocalHead) : (s.closeOut i).dlc.current = s.currentDetached i := by
  have hd := driveFailed_only ((s.closing i).finish i .cappedSuspect 0 0) i
  rw [closeOut_eq_driveFailed, ← currentDetached_of_same ((closing_only s i).keeps .link (by simp)) i,
    ← finish_current _ i .cappedSuspect 0 0]
  exact hd.keeps .link (by simp [reporting])

/-- A close-out with room in the awaiting-verdict table that brings no bench queues the jar's report alone. -/
theorem closeOut_queues {s : State} {i : LocalHead} (h : (s.head i).driveFailures ≠ 2)
    (hr : s.vu.awaiting.length < Config.awaitingSize) : s.queues (.jarReport {
      seq := ((s.head i).bound.map (·.seq)).getD 65535, head := s.fh + i.val, outcome := .cappedSuspect,
      profile := (s.head i).profile, flags := s.withJog (setFlag (s.head i).flags .driveFault), torque := 0,
      angle := 0 }) (s.closeOut i) := by
  have hc := closing_only s i
  have hf := finish_sameBus (s.closing i) i .cappedSuspect 0 0 (.inr hr)
  rw [jarReport_eq (hc.keeps .resetting (by simp)) (closing_head s i)] at hf
  rw [closeOut_counted h]
  exact (SameBus.of_only hc (by simp [busPieces])).queues
    (hf.trans (.of_only (updHead_only _ i _) (by simp [busPieces])))

theorem infeedPass_idle {s : State} {i : LocalHead} (h : (s.head i).phase = .idle) (jar : Bool) :
    s.infeedPass i jar = s.idlePass i jar := by
  unfold State.infeedPass
  rw [h]

/-- After a close-out the pass goes on at the IDLE head (R14). -/
theorem infeedPass_releasing {s : State} {i : LocalHead} (h : (s.head i).phase = .releasing) (jar : Bool) :
    s.infeedPass i jar = (s.closeOut i).infeedPass i jar := by
  rw [infeedPass_idle (closeOut_phase s i)]
  unfold State.infeedPass
  rw [h]

/-! ## The abort -/

/-- The head's jar marked ABORTED (R25, R113). -/
def State.aborting (s : State) (i : LocalHead) : State :=
  (s.flag i .aborted).markJog i

/-- What an abort does on the steam side: the waiting claim is withdrawn, an open valve in FLUSHING closes (R25, R73). -/
def State.abortSteam (s : State) (i : LocalHead) : State :=
  if (s.head i).phase = .flushing ∧ (s.head i).valveOpen = true then (s.withdrawClaim i).closeValve i
  else s.withdrawClaim i

/-- What an abort does on the drive side, by the head's phase (R25, R106). -/
def State.abortDrive (s : State) (i : LocalHead) : Phase → State
  | .torquing => (s.detach i [.setup, .start]).request i .stop
  | .releasing => s.withdraw i .result
  | .idle | .seated | .capHeld | .claiming | .flushing | .pressed => s.withdraw i .setup

theorem abortActions_eq {s : State} {i : LocalHead} (h : (s.head i).phase ≠ .idle) :
    s.abortActions i = (s.abortSteam i).abortDrive i (s.head i).phase := by
  unfold State.abortActions State.abortSteam
  cases hp : (s.head i).phase with
  | idle => exact absurd hp h
  | flushing => simp only [true_and]; rfl
  | _ => rfl

/-- The station as an abort ends the cycle of a head. -/
def State.abortEnd (s : State) (i : LocalHead) : State :=
  ((s.aborting i).abortSteam i).abortDrive i (s.head i).phase

theorem aborting_head (s : State) (i : LocalHead) :
    (s.aborting i).head i = { s.head i with flags := s.withJog (setFlag (s.head i).flags .aborted) } := by
  rw [State.aborting, markJog_eq, State.head_updHead_same, State.flag, State.head_updHead_same]
  rfl

theorem aborting_only (s : State) (i : LocalHead) : ChangesOnly [.head i] s (s.aborting i) :=
  (flag_only s i _).trans (markJog_only _ i)

theorem abortHead_idle {s : State} {i : LocalHead} (h : (s.head i).phase = .idle) : State.abortHead i s = s :=
  if_pos h

theorem abortHead_open {s : State} {i : LocalHead} (h : (s.head i).phase ≠ .idle) :
    State.abortHead i s = (s.abortEnd i).finish i (s.head i).phase.abortOutcome 0 0 := by
  have hp : ((s.aborting i).head i).phase = (s.head i).phase := by rw [aborting_head]
  have ha : (s.aborting i).abortActions i = s.abortEnd i := by
    rw [abortActions_eq (by rw [hp]; exact h), hp, State.abortEnd]
  unfold State.abortHead
  rw [if_neg h, ← ha]
  rfl

theorem abortDrive_head (s : State) (i : LocalHead) (p : Phase) (j : LocalHead) :
    (s.abortDrive i p).head j = s.head j := by
  cases p <;> rfl

theorem abortDrive_claim (s : State) (i : LocalHead) (p : Phase) (j : LocalHead) :
    (s.abortDrive i p).claim j = s.claim j := by
  cases p <;> rfl

theorem abortDrive_only (s : State) (i : LocalHead) (p : Phase) : ChangesOnly [.slot i, .link] s (s.abortDrive i p) := by
  have hw := fun k => withdraw_only s i k
  cases p with
  | torquing => exact ((detach_only s i _).comp (request_only _ i _)).mono (by simp)
  | _ => exact hw _

theorem abortDrive_slot (s : State) (i : LocalHead) (p : Phase) : (s.abortDrive i p).slot i =
    if p = .torquing then (s.slot i).request .stop
    else if p = .releasing then (s.slot i).withdraw .result else (s.slot i).withdraw .setup := by
  cases p with
  | torquing => exact State.slot_updSlot_same _ i _
  | _ => exact slot_withdraw s i _

theorem abortDrive_currentDetached (s : State) (i : LocalHead) (p : Phase) :
    (s.abortDrive i p).currentDetached i = s.currentDetached i := by
  cases p with
  | torquing => exact currentDetached_detach s i _
  | _ => exact currentDetached_withdraw s i _

/-- The head's valve is open in FLUSHING, so that an abort cuts its flush. -/
abbrev Head.flushOpen (h : Head) : Prop :=
  h.phase = .flushing ∧ h.valveOpen = true

/-- The steam side of an abort leaves an open valve closed with its applied dwell, and the waiting claim withdrawn. -/
theorem abortSteam_head (s : State) (i : LocalHead) : ((s.aborting i).abortSteam i).head i = { s.head i with
    flags := s.withJog (setFlag (s.head i).flags .aborted),
    claimsEnded := (s.head i).claimsEnded || (s.claim i).waits,
    valveOpen := (s.head i).valveOpen && !decide (s.head i).flushOpen,
    applied := if (s.head i).flushOpen then (min s.now (s.head i).valveCloseAt - (s.head i).valveOpenedAt) / 1000
      else (s.head i).applied } := by
  have hm := aborting_only s i
  have hw := withdrawClaim_head_after hm
  have hn : ((s.aborting i).withdrawClaim i).now = s.now := (withdrawClaim_only_after hm).keeps .now (by simp)
  rw [aborting_head] at hw
  unfold State.abortSteam
  rw [aborting_head]
  by_cases ho : (s.head i).flushOpen
  · rw [if_pos ho, closeValve_head hn hw]
    simp [ho]
  · rw [if_neg ho, hw]
    simp [ho]

theorem abortSteam_claim (s : State) (i : LocalHead) :
    ((s.aborting i).abortSteam i).claim i = (s.claim i).afterWithdrawal := by
  have hm := aborting_only s i
  rw [← withdrawClaim_claim_after hm]
  unfold State.abortSteam
  split
  · exact (closeValve_only _ i).keeps (.claim i) (by simp [reporting])
  · rfl

theorem abortSteam_sameBus (s : State) (i : LocalHead) :
    SameBus (if (s.head i).flushOpen then (s.withoutClaimFrame i).handIn (.drawEnd (s.fh + i.val))
      else s.withoutClaimFrame i) ((s.aborting i).abortSteam i) := by
  have hm := aborting_only s i
  have hb := withdrawClaim_sameBus_after hm
  have hg := globalHead_of_same ((withdrawClaim_only_after hm).keeps .resetting (by simp)) i
  unfold State.abortSteam
  rw [aborting_head]
  by_cases ho : (s.head i).flushOpen
  · have hv := closeValve_sameBus ((s.aborting i).withdrawClaim i) i
    rw [hg] at hv
    rw [if_pos ho, if_pos ho]
    exact (hb.handIn _).trans hv
  · rw [if_neg ho, if_neg ho]
    exact hb

theorem abortSteam_only (s : State) (i : LocalHead) :
    ChangesOnly ([.head i, .claim i] ++ reporting) s ((s.aborting i).abortSteam i) := by
  have hw := (withdrawClaim_only_after (aborting_only s i)).mono (qs := [.head i, .claim i] ++ reporting)
    (by simp [reporting])
  unfold State.abortSteam
  split
  · exact hw.trans ((closeValve_only _ i).mono (by simp))
  · exact hw

theorem abortEnd_head (s : State) (i : LocalHead) : (s.abortEnd i).head i = { s.head i with
    flags := s.withJog (setFlag (s.head i).flags .aborted),
    claimsEnded := (s.head i).claimsEnded || (s.claim i).waits,
    valveOpen := (s.head i).valveOpen && !decide (s.head i).flushOpen,
    applied := if (s.head i).flushOpen then (min s.now (s.head i).valveCloseAt - (s.head i).valveOpenedAt) / 1000
      else (s.head i).applied } := by
  rw [State.abortEnd, abortDrive_head, abortSteam_head]

theorem abortEnd_only (s : State) (i : LocalHead) :
    ChangesOnly ([.head i, .claim i, .slot i, .link] ++ reporting) s (s.abortEnd i) :=
  ((abortSteam_only s i).comp (abortDrive_only _ i _)).mono (by simp [reporting])

theorem abortEnd_sameBus (s : State) (i : LocalHead) :
    SameBus (if (s.head i).flushOpen then (s.withoutClaimFrame i).handIn (.drawEnd (s.fh + i.val))
      else s.withoutClaimFrame i) (s.abortEnd i) :=
  (abortSteam_sameBus s i).trans (.of_only (abortDrive_only _ i _) (by simp [busPieces]))

theorem abortEnd_slot (s : State) (i : LocalHead) : (s.abortEnd i).slot i =
    if (s.head i).phase = .torquing then (s.slot i).request .stop
    else if (s.head i).phase = .releasing then (s.slot i).withdraw .result else (s.slot i).withdraw .setup := by
  rw [State.abortEnd, abortDrive_slot,
    show ((s.aborting i).abortSteam i).slot i = s.slot i from (abortSteam_only s i).keeps (.slot i) (by simp [reporting])]

theorem abortEnd_currentDetached (s : State) (i : LocalHead) :
    (s.abortEnd i).currentDetached i = s.currentDetached i := by
  rw [State.abortEnd, abortDrive_currentDetached]
  exact currentDetached_of_same ((abortSteam_only s i).keeps .link (by simp [reporting])) i

/-- The report of a jar whose cycle an abort ends. -/
theorem abortEnd_report (s : State) (i : LocalHead) (o : JarOutcome) : (s.abortEnd i).jarReport i o 0 0 = {
    seq := ((s.head i).bound.map (·.seq)).getD 65535, head := s.fh + i.val, outcome := o, profile := (s.head i).profile,
    flags := s.withJog (setFlag (s.head i).flags .aborted), torque := 0, angle := 0 } :=
  jarReport_eq ((abortEnd_only s i).keeps .resetting (by simp [reporting])) (abortEnd_head s i) o 0 0

theorem abortOutcome_eq {p : Phase} : p.abortOutcome =
    if p = .pressed ∨ p = .torquing ∨ p = .releasing then .cappedSuspect else .aborted := by
  cases p <;> rfl

theorem vu_of_only {ps : List Piece} {s t : State} (h : ChangesOnly ps s t) (ha : .awaiting ∉ ps)
    (hr : .silentRun ∉ ps) (hl : ∀ i, .learned i ∉ ps) : t.vu = s.vu := by
  have hs : t.vu.slots = s.vu.slots := PerHead.ext_get fun i => h.keeps (.learned i) (hl i)
  have h₁ := h.keeps .awaiting ha
  have h₂ := h.keeps .silentRun hr
  simp only [Piece.same] at h₁ h₂
  cases h₃ : t.vu
  cases h₄ : s.vu
  simp_all

/-- An aborted jar that is not capped leaves the Verdict Unit alone (R122). -/
theorem abortEnd_finish_vu (s : State) (i : LocalHead) {o : JarOutcome} (h : o.capped = false) :
    ((s.abortEnd i).finish i o 0 0).vu = s.vu :=
  vu_of_only ((abortEnd_only s i).comp (finish_uncapped_only _ i h 0 0)) (by simp [reporting]) (by simp [reporting])
    (by simp [reporting])

/-- On the bus side an abort queues the jar's report, behind the DRAW_END of a valve it closes. -/
theorem abortHead_queues {s : State} {i : LocalHead} (h : (s.head i).phase ≠ .idle) {o : JarOutcome}
    (ho : (s.head i).phase.abortOutcome = o) (hr : o.capped = false ∨ s.vu.awaiting.length < Config.awaitingSize) :
    State.queues (if (s.head i).flushOpen then (s.withoutClaimFrame i).handIn (.drawEnd (s.fh + i.val))
      else s.withoutClaimFrame i) (.jarReport {
        seq := ((s.head i).bound.map (·.seq)).getD 65535, head := s.fh + i.val, outcome := o,
        profile := (s.head i).profile, flags := s.withJog (setFlag (s.head i).flags .aborted), torque := 0,
        angle := 0 }) (State.abortHead i s) := by
  subst ho
  have hv : (s.abortEnd i).vu.awaiting = s.vu.awaiting := (abortEnd_only s i).keeps .awaiting (by simp [reporting])
  have hf := finish_sameBus (s.abortEnd i) i (s.head i).phase.abortOutcome 0 0 (by rw [hv]; exact hr)
  rw [abortEnd_report] at hf
  rw [abortHead_open h]
  exact (abortEnd_sameBus s i).queues hf

/-- Settles O14: both ends of a cycle are a change of the head's own parts followed by `finish`. -/
theorem closeOutAndAbortEndACycle : Obligations.CloseOutAndAbortEndACycle := by
  intro s i jp cp
  refine ⟨fun hp => ⟨closeOut_counted, closeOut_third_benched, closeOut_third_active, closeOut_phase s i,
    closeOut_slot s i, closeOut_current s i, closeOut_queues, closeOut_third, infeedPass_releasing hp _⟩,
    abortHead_idle, fun h => ?_⟩
  have hu := abortHead_open h
  have hhead : (State.abortHead i s).head i = { s.head i with
      flags := s.withJog (setFlag (s.head i).flags .aborted),
      claimsEnded := (s.head i).claimsEnded || (s.claim i).waits,
      valveOpen := (s.head i).valveOpen && !decide (s.head i).flushOpen,
      applied := if (s.head i).flushOpen then (min s.now (s.head i).valveCloseAt - (s.head i).valveOpenedAt) / 1000
        else (s.head i).applied : Head }.endCycle := by
    rw [hu, finish_head, abortEnd_head]
  refine ⟨⟨s.abortEnd i, ?_, abortEnd_head s i, (abortEnd_sameBus s i).busSideOf, abortEnd_only s i⟩,
    by rw [hhead]; rfl, by rw [hhead]; rfl, by rw [hhead]; rfl, by rw [hhead]; rfl, ?_, ?_, ?_, fun hph => ?_,
    fun ho => ?_, fun hph hr => ?_, ?_⟩
  · rw [hu, abortOutcome_eq]
  · rw [hu, finish_claim, State.abortEnd, abortDrive_claim, abortSteam_claim]
  · rw [hu, finish_slot, abortEnd_slot]
  · rw [hu, finish_current, abortEnd_currentDetached]
  · have hout : (s.head i).phase.abortOutcome = .aborted := by
      rcases hph with hp | hp | hp | ⟨hp, _⟩ <;> rw [hp] <;> rfl
    have hno : ¬ (s.head i).flushOpen := by
      rintro ⟨hf, hv⟩
      rcases hph with hp | hp | hp | ⟨_, hp⟩ <;> simp_all
    have hq := abortHead_queues h hout (.inl rfl)
    rw [if_neg hno] at hq
    exact ⟨hq, by rw [hu, hout]; exact abortEnd_finish_vu s i rfl⟩
  · have hout : (s.head i).phase.abortOutcome = .aborted := by
      rw [ho.1]
      rfl
    have hq := abortHead_queues h hout (.inl rfl)
    rw [if_pos (show (s.head i).flushOpen from ho)] at hq
    refine ⟨?_, hq, by rw [hu, hout]; exact abortEnd_finish_vu s i rfl⟩
    rw [hhead]
    simp [Head.endCycle, ho.1, ho.2]
  · have hout : (s.head i).phase.abortOutcome = .cappedSuspect := by
      rw [abortOutcome_eq, if_pos hph]
    have hno : ¬ (s.head i).flushOpen := by
      rintro ⟨hf, -⟩
      rcases hph with hp | hp | hp <;> simp_all
    have hq := abortHead_queues h hout (.inr hr)
    rw [if_neg hno] at hq
    exact hq
  · exact (abortHead_only i s).mono (by simp [abortPieces, finishPieces, handOffPieces, endingPieces, reporting])

end Sys2Proof.Machine
end

section
/-!
The infeed pass of an IDLE head: without a cycle (O9), and as the beginning of a capping cycle (O10).
-/
namespace Sys2Proof.Machine

/-! ## Reading a pass -/

/-- Where the record, verdict and claim counters and the bad frames stay, only the TX drops can differ. -/
theorem counters_of_only {ps : List Piece} {s t : State} (h : ChangesOnly ps s t)
    (hd : ∀ p ∈ [Piece.badFrames, .recordCounts, .verdictCounts, .claimsRefused], p ∉ ps) :
    t.counters = { s.counters with txDrops := t.counters.txDrops } := by
  have hb := h.keeps .badFrames (hd _ (by decide))
  have hr := h.keeps .recordCounts (hd _ (by decide))
  have hv := h.keeps .verdictCounts (hd _ (by decide))
  have hc := h.keeps .claimsRefused (hd _ (by decide))
  simp only [Piece.same] at hb hr hv hc
  cases h₁ : t.counters
  cases h₂ : s.counters
  simp_all

/-- The flags a jar begins with (R16, R113). -/
theorem firstFlags_eq (s : State) (r : Option JarRecord) :
    s.firstFlags r = s.withJog (if r.any (·.range) then setFlag 0 .recordRange else 0) := by
  simp [State.firstFlags, State.withJog, setFlagIf]

/-- The first flags of a jar are none of those that head counters count (R120). -/
theorem firstFlags_uncounted (s : State) (r : Option JarRecord) {f : JarFlag}
    (h : f = .shortFlush ∨ f = .noFlush ∨ f = .driveFault) : hasFlag (s.firstFlags r) f = false := by
  unfold State.firstFlags
  generalize decide (s.sc.mode = .jog) = jog
  generalize r.any (·.range) = range
  rcases h with rfl | rfl | rfl <;> cases jog <;> cases range <;> decide

/-- The records due for a head are taken, and all but one of them, or all, are counted (R39, R40). -/
def State.passTaken (s : State) (i : LocalHead) (f : Counters → Counters) : State :=
  (s.takeRecords (s.globalHead i)).count f

theorem passTaken_surplus_only (s : State) (i : LocalHead) (n : Nat) :
    ChangesOnly [.records, .recordCounts] s (s.passTaken i fun c => { c with surplus := bumpBy n c.surplus }) :=
  (takeRecords_only s _).comp (count_surplus_only _ (bumpBy n))

theorem idlePass_noJar (s : State) (i : LocalHead) : s.idlePass i false = s.passTaken i fun c =>
    { c with orphans := bumpBy (s.dueRecords (s.globalHead i)).length c.orphans } :=
  rfl

theorem idlePass_benched {s : State} {i : LocalHead} (hb : (s.head i).bench ≠ none) :
    s.idlePass i true = (s.passTaken i fun c =>
      { c with surplus := bumpBy (s.dueRecords (s.globalHead i)).length c.surplus }).reportJar i false
        (s.passReport i .benched none) :=
  if_pos (Option.isSome_iff_ne_none.2 hb)

theorem idlePass_active {s : State} {i : LocalHead} (hb : (s.head i).bench = none) :
    s.idlePass i true =
      let u := s.passTaken i fun c =>
        { c with surplus := bumpBy ((s.dueRecords (s.globalHead i)).length - 1) c.surplus }
      if s.capping then u.beginCycle i (s.dueRecords (s.globalHead i)).head?
      else u.reportJar i false (s.passReport i .stopped (s.dueRecords (s.globalHead i)).head?) :=
  if_neg (by simp [hb])

/-! ## A pass without a cycle -/

/-- A jar reported at the pass itself moves one head counter, the not capped (R120). -/
theorem passReport_headCounters (s t : State) (i : LocalHead) {o : JarOutcome} (h : o = .benched ∨ o = .stopped)
    (r : Option JarRecord) : (t.reportJar i false (s.passReport i o r)).headCounters.get i =
      { t.headCounters.get i with notCapped := bump (t.headCounters.get i).notCapped } := by
  have hk := (handIn_reporting (t.updCounters i fun c => c.tally false (s.passReport i o r))
    (f := .jarReport (s.passReport i o r)) rfl).keeps (.headCounts i) (by simp [reporting])
  have hf : ∀ f, f = .shortFlush ∨ f = .noFlush ∨ f = .driveFault → hasFlag (s.passReport i o r).flags f = false :=
    fun f => firstFlags_uncounted s r
  refine hk.trans ?_
  rw [State.updCounters_headCounters, PerHead.get_upd_same, HeadCounters.tally, hf _ (by simp), hf _ (by simp),
    hf _ (by simp), show (s.passReport i o r).outcome = o from rfl]
  rcases h with rfl | rfl <;> rfl

/-- What a jar that is only reported at its pass leaves: its records taken and counted as surplus, the not capped moved,
and the report handed in (R15, R39, R40). -/
theorem pass_reported {s : State} {i : LocalHead} {o : JarOutcome} {r : Option JarRecord} {n : Nat} {u : State}
    (h : o = .benched ∨ o = .stopped)
    (hu : u = (s.passTaken i fun c => { c with surplus := bumpBy n c.surplus }).reportJar i false (s.passReport i o r)) :
    u.rq = s.rq.filter (fun r => r.head != s.fh + i.val)
      ∧ u.counters = { s.counters with surplus := min 65535 (s.counters.surplus + n), txDrops := u.counters.txDrops }
      ∧ u.headCounters.get i
        = { s.headCounters.get i with notCapped := min 65535 ((s.headCounters.get i).notCapped + 1) }
      ∧ s.queues (.jarReport (s.passReport i o r)) u
      ∧ ChangesOnly ([.records, .recordCounts, .headCounts i] ++ reporting) s u := by
  subst hu
  have ht := passTaken_surplus_only s i n
  have hr := reportJar_only (s.passTaken i fun c => { c with surplus := bumpBy n c.surplus }) i false
    (s.passReport i o r)
  have hbus : SameBus s ((s.passTaken i fun c => { c with surplus := bumpBy n c.surplus }).updCounters i
      fun c => c.tally false (s.passReport i o r)) :=
    .of_only (ht.comp (updCounters_only _ i _)) (by simp [busPieces])
  exact ⟨hr.keeps .records (by simp [reporting]), counters_of_only hr (by simp [reporting]),
    passReport_headCounters s _ i h r, hbus.queues (.refl _), (ht.comp hr).mono (by simp)⟩

/-- Settles O9: a pass without a cycle takes records and reports the jar at most. -/
theorem infeedPassWithoutACycle : Obligations.InfeedPassWithoutACycle := by
  intro s i jp cp h
  have hu : ∀ b, jp.getLsbD i.val = b → s.takeAngle i jp cp .infeed = s.idlePass i b := fun b hb => by
    rw [← infeedPass_idle h, ← hb]
    rfl
  refine ⟨fun hj => hu _ hj, fun hj hb => ?_, fun hj hb hm => ?_⟩
  · have hr : s.passReport i .benched none = {
        seq := 65535, head := s.fh + i.val, outcome := .benched, profile := 0, flags := s.withJog 0, torque := 0,
        angle := 0 } := by
      rw [State.passReport, firstFlags_eq]
      rfl
    rw [← hr]
    exact pass_reported (.inl rfl) ((hu _ hj).trans (idlePass_benched hb))
  · have hr : s.passReport i .stopped (s.dueRecords (s.globalHead i)).head? = {
        seq := ((s.dueRecords (s.globalHead i)).head?.map (·.seq)).getD 65535, head := s.fh + i.val,
        outcome := .stopped, profile := ((s.dueRecords (s.globalHead i)).head?.map (·.product)).getD 0,
        flags := if (s.dueRecords (s.globalHead i)).head?.any (·.range) then setFlag 0 .recordRange else 0,
        torque := 0, angle := 0 } := by
      rw [State.passReport, firstFlags_eq, seqOf_eq, State.withJog, if_neg (by simp [hm])]
      rfl
    have hc : s.capping = false := by simp [State.capping, hm]
    exact hr ▸ pass_reported (.inr rfl) ((hu _ hj).trans ((idlePass_active hb).trans (by simp only [hc]; rfl)))

/-! ## The beginning of a cycle -/

/-- The station that a cycle begins at: an underrun counted and latched where no record is due (R41). -/
def State.recordChecked (s : State) (r : Option JarRecord) : State :=
  if r.isNone then s.underrun else s

/-- The head with the cycle of the jar that a pass brings (R16, R41, R63). -/
def State.seatedHead (s : State) (i : LocalHead) (r : Option JarRecord) : Head :=
  (s.head i).seat r (setFlagIf r.isNone (s.firstFlags r) .recordMissing)
    (infeedCall (s.profile (productOf r)).forDwell (s.dwellInput i r))

/-- The head's cycle begun and its SETUP requested, once the record is checked (R16, R92). -/
def State.seatAndSetup (s : State) (i : LocalHead) (h : Head) (r : DriveRequest) : State :=
  (s.updHead i fun _ => h).request i r

theorem seatAndSetup_only (s : State) (i : LocalHead) (h : Head) (r : DriveRequest) :
    ChangesOnly [.head i, .slot i] s (s.seatAndSetup i h r) :=
  (updHead_only s i _).comp (request_only _ i r)

theorem recordChecked_only (s : State) (r : Option JarRecord) :
    ChangesOnly (.recordCounts :: if r.isNone then reporting else []) s (s.recordChecked r) := by
  unfold State.recordChecked
  split
  · exact underrun_only s
  · exact ChangesOnly.refl _ _

theorem recordChecked_counters (s : State) (r : Option JarRecord) : (s.recordChecked r).counters = { s.counters with
    underruns := if r.isNone then min 65535 (s.counters.underruns + 1) else s.counters.underruns,
    txDrops := (s.recordChecked r).counters.txDrops } := by
  unfold State.recordChecked
  split
  · exact counters_of_only (latch_only _ .recordUnderrun) (by decide)
  · rfl

theorem recordChecked_sameBus {s t : State} (h : SameBus s t) (r : Option JarRecord) :
    SameBus (if r.isNone then s.latch .recordUnderrun else s) (t.recordChecked r) := by
  unfold State.recordChecked
  split
  · exact (h.trans (.of_only (count_underruns_only t bump) (by decide))).latch _
  · exact h

theorem recordChecked_latched (s : State) {r : Option JarRecord} (h : r.isNone = true) :
    hasNotice (s.recordChecked r).sc.latched .recordUnderrun = true := by
  rw [State.recordChecked, if_pos h]
  exact latch_has _ _

/-- What an infeed call is handed for the jar, with or without its record (R16, R41). -/
theorem dwellInput_eq (s : State) (i : LocalHead) (r : Option JarRecord) : s.dwellInput i r = {
    mass := (r.map (·.mass)).getD ((s.profile (productOf r)).rho * (s.profile (productOf r)).Vb / 1000),
    temp := (r.map (·.temp)).getD (s.profile (productOf r)).Tref, recordMissing := r.isNone,
    trim := (s.learned i).trim, purgePending := (s.head i).purgePending, tPitch := s.ttu.tPitch,
    window := s.setup.aS - s.setup.aFs, pc := s.pc } := by
  cases r <;> rfl

theorem head?_isNone {α : Type} (l : List α) : l.head?.isNone = l.isEmpty := by
  cases l <;> rfl

theorem beginCycle_eq (s : State) (i : LocalHead) (r : Option JarRecord) : s.beginCycle i r =
    (s.recordChecked r).seatAndSetup i (s.seatedHead i r) (s.profile (productOf r)).setupRequest := by
  have hk : (s.recordChecked r).head i = s.head i :=
    (recordChecked_only s r).keeps (.head i) (by cases r <;> simp [reporting])
  exact congrArg (State.request · i _) (State.updHead_congr (congrArg (fun h : Head => h.seat r _ _) hk))

theorem beginCycle_head (s : State) (i : LocalHead) (r : Option JarRecord) :
    (s.beginCycle i r).head i = s.seatedHead i r := by
  rw [beginCycle_eq]
  exact State.head_updHead_same _ i _

theorem beginCycle_slot (s : State) (i : LocalHead) (r : Option JarRecord) :
    (s.beginCycle i r).slot i = (s.slot i).request (s.profile (productOf r)).setupRequest := by
  have hk : (s.recordChecked r).slot i = s.slot i :=
    (recordChecked_only s r).keeps (.slot i) (by cases r <;> simp [reporting])
  rw [beginCycle_eq, ← hk]
  exact State.slot_updSlot_same _ i _

/-- What the beginning of a cycle changes; the bus side only on an underrun (R41). -/
theorem beginCycle_changes (s : State) (i : LocalHead) (r : Option JarRecord) :
    ChangesOnly ([.recordCounts, .head i, .slot i] ++ if r.isNone then reporting else []) s (s.beginCycle i r) := by
  rw [beginCycle_eq]
  exact ((recordChecked_only s r).comp (seatAndSetup_only _ i _ _)).mono (by cases r <;> simp [reporting])

theorem beginCycle_counters (s : State) (i : LocalHead) (r : Option JarRecord) :
    (s.beginCycle i r).counters = { s.counters with
      underruns := if r.isNone then min 65535 (s.counters.underruns + 1) else s.counters.underruns,
      txDrops := (s.beginCycle i r).counters.txDrops } := by
  rw [beginCycle_eq]
  exact recordChecked_counters s r

theorem beginCycle_sameBus {s t : State} (h : SameBus s t) (i : LocalHead) (r : Option JarRecord) :
    SameBus (if r.isNone then s.latch .recordUnderrun else s) (t.beginCycle i r) := by
  rw [beginCycle_eq]
  exact (recordChecked_sameBus h r).trans (.of_only (seatAndSetup_only _ i _ _) (by simp [busPieces]))

theorem beginCycle_latched (s : State) (i : LocalHead) {r : Option JarRecord} (h : r.isNone = true) :
    hasNotice (s.beginCycle i r).sc.latched .recordUnderrun = true := by
  rw [beginCycle_eq]
  exact recordChecked_latched s h

/-- The seated head field by field, the infeed call's arguments as the spec hands them (R16, R41, R48). -/
theorem seatedHead_eq (s : State) (i : LocalHead) (r : Option JarRecord) :
    let p := s.profile ((r.map (·.product)).getD 0)
    let d := infeedCall p.forDwell {
      mass := (r.map (·.mass)).getD (p.rho * p.Vb / 1000), temp := (r.map (·.temp)).getD p.Tref,
      recordMissing := r.isNone, trim := (s.learned i).trim, purgePending := (s.head i).purgePending,
      tPitch := s.ttu.tPitch, window := s.setup.aS - s.setup.aFs, pc := s.pc }
    let first : Word := if r.any (·.range) then setFlag 0 .recordRange else 0
    s.seatedHead i r = { s.head i with
      phase := .seated, bound := r, profile := (r.map (·.product)).getD 0, dwell := d.dwell, window := d.window,
      flags := (if r.isNone then setFlag (s.withJog first) .recordMissing else s.withJog first) ||| d.flags,
      setupDone := false, claimsEnded := false, applied := 0 } := by
  dsimp only
  rw [State.seatedHead, dwellInput_eq, firstFlags_eq]
  rfl

/-- Settles O10: `idlePass` at an active head with a jar is `beginCycle`, read part by part. -/
theorem infeedPassBeginsACycle : Obligations.InfeedPassBeginsACycle := by
  intro s i jp cp h hj hb hm
  have hc : s.capping = true := by rcases hm with hm | hm <;> simp [State.capping, hm]
  have hu : s.takeAngle i jp cp .infeed = s.infeedPass i true := by rw [← hj]; rfl
  have hne : (s.rq.filter fun r => r.head == s.fh + i.val).isEmpty
      = (s.rq.filter fun r => r.head == s.fh + i.val).head?.isNone := (head?_isNone _).symm
  rw [hu, infeedPass_idle h, idlePass_active hb]
  dsimp only
  rw [if_pos hc, hne]
  have hto := passTaken_surplus_only s i ((s.dueRecords (s.globalHead i)).length - 1)
  have hall := hto.comp (beginCycle_changes _ i (s.dueRecords (s.globalHead i)).head?)
  refine ⟨(beginCycle_head _ i _).trans (seatedHead_eq s i _), beginCycle_slot _ i _, ?_, beginCycle_counters _ i _,
    (beginCycle_sameBus (.of_only hto (by decide)) i _).busSideOf, fun hd => ?_, ?_⟩
  · exact (beginCycle_only _ i _).keeps .records (by simp [reporting])
  · exact beginCycle_latched _ i (by rw [State.dueRecords, State.globalHead, hd]; rfl)
  · refine hall.mono ?_
    show _ ⊆ _ ++ if (s.dueRecords (s.globalHead i)).head?.isNone then reporting else []
    generalize (if (s.dueRecords (s.globalHead i)).head?.isNone then reporting else []) = l
    simp

end Sys2Proof.Machine
end

section
/-!
The counts and marks that cut cycles short: reverse counts and illegal steps (O15), the zero mark (O16).
-/
namespace Sys2Proof.Machine

/-! ## Notices stand through an abort -/

theorem keepsNotices_of_only {ps : List Piece} {s t : State} (h : ChangesOnly ps s t) (hl : .latched ∉ ps) :
    KeepsNotices s t :=
  .of_eq (h.keeps .latched hl)

theorem handOff_keepsNotices (s : State) (e : AwaitingEntry) : KeepsNotices s (s.handOff e) := by
  unfold State.handOff
  split
  · exact keepsNotices_of_only (setAwaiting_only s _) (by simp)
  · exact (keepsNotices_of_only ((setAwaiting_only s _).comp (count_evictions_only _ _)) (by simp)).trans
      (latch_keepsNotices _ _)

theorem handOffJar_keepsNotices (s : State) (i : LocalHead) (o : JarOutcome) : KeepsNotices s (s.handOffJar i o) := by
  unfold State.handOffJar
  split
  · exact handOff_keepsNotices s _
  · exact .of_eq rfl

theorem finish_keepsNotices (s : State) (i : LocalHead) (o : JarOutcome) (torque angle : Nat) :
    KeepsNotices s (s.finish i o torque angle) := by
  have hr : KeepsNotices s (s.reportJar i true (s.jarReport i o torque angle)) :=
    (keepsNotices_of_only (updCounters_only s i _) (by simp)).trans (handIn_keepsNotices _ _)
  exact (hr.trans (handOffJar_keepsNotices _ i o)).trans
    (keepsNotices_of_only ((updHead_only _ i _).comp (detachCycle_only _ i)) (by simp))

theorem abortSteam_keepsNotices (s : State) (i : LocalHead) : KeepsNotices s (s.abortSteam i) := by
  have hw := keepsNotices_of_only (withdrawClaim_only s i) (by simp)
  unfold State.abortSteam
  split
  · exact (hw.trans (keepsNotices_of_only (updHead_only _ i _) (by simp))).trans (handIn_keepsNotices _ _)
  · exact hw

theorem abortHead_keepsNotices (i : LocalHead) (s : State) : KeepsNotices s (State.abortHead i s) := by
  by_cases h : (s.head i).phase = .idle
  · rw [abortHead_idle h]
    exact .of_eq rfl
  · rw [abortHead_open h]
    exact (((keepsNotices_of_only (aborting_only s i) (by simp)).trans (abortSteam_keepsNotices _ i)).trans
      (keepsNotices_of_only (abortDrive_only _ i _) (by simp))).trans (finish_keepsNotices _ i _ _ _)

/-! ## The abort of every owned head -/

/-- A condition that the action at each owned head keeps is kept by the actions at all of them. -/
theorem foldl_keeps {P : State → Prop} {act : LocalHead → State → State} {l : List LocalHead} {s : State} (hs : P s)
    (h : ∀ i ∈ l, ∀ t, P t → P (act i t)) : P (l.foldl (fun t i => act i t) s) := by
  induction l generalizing s with
  | nil => exact hs
  | cons i l ih => exact ih (h i (by simp) s hs) fun j hj => h j (by simp [hj])

theorem mem_owned {s : State} {i : LocalHead} : i ∈ s.owned ↔ s.owns i = true := by
  unfold State.owned
  rw [List.mem_filter]
  fin_cases i <;> simp

theorem abortAll_keepsNotices (s : State) : KeepsNotices s s.abortAll :=
  foldl_keeps (P := KeepsNotices s) (.of_eq rfl) fun i _ t ht => ht.trans (abortHead_keepsNotices i t)

theorem abortHead_phase (i : LocalHead) (s : State) : ((State.abortHead i s).head i).phase = .idle := by
  by_cases h : (s.head i).phase = .idle
  · rw [abortHead_idle h]
    exact h
  · rw [abortHead_open h]
    exact finish_phase _ i _ _ _

/-- An abort leaves an IDLE head IDLE, whosever it is. -/
theorem abortHead_keeps_idle (i j : LocalHead) {s : State} (h : (s.head j).phase = .idle) :
    ((State.abortHead i s).head j).phase = .idle := by
  by_cases hij : j = i
  · subst hij
    exact abortHead_phase j s
  · rw [head_of_only (abortHead_only i s) j (by simp [abortPieces, finishPieces, handOffPieces, reporting, hij])]
    exact h

/-- After an abort order no owned head has an open cycle (R25). -/
theorem abortAll_phase {s : State} {i : LocalHead} (h : s.owns i = true) : (s.abortAll.head i).phase = .idle := by
  have key : ∀ (l : List LocalHead) (t : State), i ∈ l →
      ((l.foldl (fun u j => State.abortHead j u) t).head i).phase = .idle := by
    intro l
    induction l with
    | nil => simp
    | cons j l ih =>
      intro t hm
      rcases List.mem_cons.1 hm with rfl | hm
      · exact foldl_keeps (P := fun u => (u.head i).phase = .idle) (s := State.abortHead i t) (abortHead_phase i t)
          fun k _ u hu => abortHead_keeps_idle k i hu
      · exact ih _ hm
  exact key _ s (mem_owned.2 h)

/-- An abort order that finds no open cycle does nothing (R25). -/
theorem abortAll_of_idle {s : State} (h : ∀ i, s.owns i = true → (s.head i).phase = .idle) : s.abortAll = s :=
  foldl_keeps (P := fun u => u = s) rfl fun i hi t ht => by
    rw [ht]
    exact abortHead_idle (h i (mem_owned.1 hi))

theorem abortAll_ttu (s : State) : s.abortAll.ttu = s.ttu :=
  (abortAll_only s).keeps .ttu (by decide)

theorem abortAllPieces_sub : abortAllPieces ⊆ abortingPieces := by
  intro p hp
  simp only [abortAllPieces, abortingPieces, handOffPieces, List.mem_append] at hp ⊢
  simp only [List.mem_cons] at hp ⊢
  tauto

/-! ## Reverse counts and illegal steps -/

/-- The station moved one count back, its cycles still open (R2). -/
def State.movedBack (t : State) : State :=
  { t with ttu := { t.ttu with
      x := (t.ttu.x + t.setup.E - 1) % t.setup.E, dir := .reverse, lag := min t.setup.E (t.ttu.lag + 1),
      pitchCount := 0 } }

theorem reverseCount_referenced {t : State} (h : t.ttu.referenced = true) :
    t.reverseCount = if t.ttu.dir = .forward then t.movedBack.abortAll.latch .cycleAborted else t.movedBack.abortAll := by
  unfold State.reverseCount
  exact if_pos h

theorem reverseCount_unreferenced {t : State} (h : t.ttu.referenced = false) :
    t.reverseCount = (t.setDir .reverse).beginReverse t.ttu.dir := by
  unfold State.reverseCount
  exact if_neg (by simp [h])

/-- The station after an illegal step with a reference: the reference lost (R3). -/
theorem illegalStep_referenced {t : State} (h : t.ttu.referenced = true) : t.illegalStep =
    { (t.latch .encoderFault).abortAll with ttu := { t.ttu with referenced := false, lag := 0, pitchCount := 0 } } := by
  have ht : (t.latch .encoderFault).abortAll.ttu = t.ttu :=
    (abortAll_ttu _).trans ((latch_only t _).keeps .ttu (by decide))
  unfold State.illegalStep
  dsimp only
  rw [if_pos h, ht]

theorem owned_of_same {s t : State} (h : Piece.resetting.same s t) : t.owned = s.owned := by
  unfold State.owned State.owns State.hc
  rw [h.2.2.2]

theorem owns_of_same {s t : State} (h : Piece.resetting.same s t) (i : LocalHead) : t.owns i = s.owns i := by
  unfold State.owns State.hc
  rw [h.2.2.2]

/-- An abort order after a notice is latched aborts the same heads. -/
theorem latch_abortAll (s : State) (n : Notice) :
    (s.latch n).abortAll = s.owned.foldl (fun w i => w.abortHead i) (s.latch n) := by
  have h := owned_of_same ((latch_only s n).keeps .resetting (by decide))
  unfold State.abortAll State.eachOwned
  rw [h]

theorem latch_abortAll_phase {s : State} {i : LocalHead} (n : Notice) (h : s.owns i = true) :
    ((s.latch n).abortAll.head i).phase = .idle :=
  abortAll_phase ((owns_of_same ((latch_only s n).keeps .resetting (by decide)) i).trans h)

theorem illegalStep_aborting_only (s : State) : ChangesOnly (.ttu :: abortingPieces) s s.illegalStep :=
  (illegalStep_only s).mono (List.cons_subset_cons _ abortAllPieces_sub)

/-- Settles O15: `abortAll` over the owned heads, by `foldl_keeps`. -/
theorem reverseCountAndIllegalStepAbort : Obligations.ReverseCountAndIllegalStepAbort := by
  rintro s t dt rfl hlive hj
  generalize ht : s.elapse dt = t at *
  have hrev : exec (.reverseCount dt) s = .next t.reverseCount := by
    subst ht
    exact congrArg Host.Outcome.next (whenJoined_joined hlive hj _)
  have hill : exec (.illegalQuadratureStep dt) s = .next t.illegalStep := by
    subst ht
    exact congrArg Host.Outcome.next (whenJoined_joined hlive hj _)
  refine ⟨fun href => ⟨_, hrev, reverseCount_referenced href, ?_, fun i hi => ?_, fun hd => ?_, fun hd hidle => ?_,
    (reverseCount_only t).mono (List.cons_subset_cons _ abortAllPieces_sub)⟩, fun href hd => ?_, fun href hd => ?_,
    fun href => ⟨_, hill, ?_, fun i hi => ?_, ?_, illegalStep_aborting_only t⟩, fun href => ?_⟩
  · rw [reverseCount_referenced href]
    split
    · exact ((latch_only _ _).keeps .ttu (by decide)).trans (abortAll_ttu t.movedBack)
    · exact abortAll_ttu t.movedBack
  · have hp : (t.movedBack.abortAll.head i).phase = .idle := abortAll_phase hi
    rw [reverseCount_referenced href]
    split
    · rw [head_latch]
      exact hp
    · exact hp
  · rw [reverseCount_referenced href, if_pos hd]
    exact latch_has _ _
  · rw [reverseCount_referenced href, if_neg (by simp [hd])]
    exact abortAll_of_idle (s := t.movedBack) hidle
  · rw [hrev, reverseCount_unreferenced href, State.beginReverse, if_pos hd]
    rfl
  · rw [hrev, reverseCount_unreferenced href, State.beginReverse, if_neg (by simp [hd]), State.setDir, ← hd]
  · rw [illegalStep_referenced href, latch_abortAll]
  · rw [illegalStep_referenced href]
    exact latch_abortAll_phase _ hi
  · rw [illegalStep_referenced href]
    exact abortAll_keepsNotices _ _ (latch_has _ _)
  · rw [hill, State.illegalStep, if_neg (by simp [href])]

/-! ## The zero mark -/

theorem zeroMark_unreferenced {t : State} (h : t.ttu.referenced = false) (jp cp : BitVec 4) :
    t.zeroMark jp cp = { t with ttu := t.ttu.zeroed } := by
  unfold State.zeroMark
  rw [h]
  rfl

/-- A referenced station's zero mark, by how far from 0 it finds the position (R6, R7). -/
theorem zeroMark_referenced {t : State} (h : t.ttu.referenced = true) (jp cp : BitVec 4) : t.zeroMark jp cp =
    if 2 < t.markOffset then t.zeroMarkFault else if t.ttu.x = 0 then t
    else if t.ttu.x ≤ t.setup.E / 2 then t.correctBack else State.correctForward jp cp t.markOffset t := by
  unfold State.zeroMark
  rw [h]
  rfl

theorem zeroMark_at_zero {t : State} (h : t.ttu.referenced = true) (hx : t.ttu.x = 0) (jp cp : BitVec 4) :
    t.zeroMark jp cp = t := by
  rw [zeroMark_referenced h, if_neg (by simp [State.markOffset, hx]), if_pos hx]

theorem zeroMark_ahead {t : State} (h : t.ttu.referenced = true) (hE : 128 ≤ t.setup.E)
    (hx : t.ttu.x = 1 ∨ t.ttu.x = 2) (jp cp : BitVec 4) : t.zeroMark jp cp = t.correctBack := by
  have hh : t.ttu.x ≤ t.setup.E / 2 := by omega
  have hm : t.markOffset = t.ttu.x := if_pos hh
  rw [zeroMark_referenced h, if_neg (by omega), if_neg (by omega), if_pos hh]

theorem zeroMark_behind {t : State} (h : t.ttu.referenced = true) (hE : 128 ≤ t.setup.E) {n : Nat} (hn : 0 < n)
    (hn2 : n ≤ 2) (hx : t.ttu.x + n = t.setup.E) (jp cp : BitVec 4) :
    t.zeroMark jp cp = State.correctForward jp cp n t := by
  have hh : ¬ t.ttu.x ≤ t.setup.E / 2 := by omega
  have hm : t.markOffset = n := by
    rw [State.markOffset, if_neg hh]
    omega
  rw [zeroMark_referenced h, if_neg (by omega), if_neg (by omega), if_neg hh, hm]

theorem zeroMark_far {t : State} (h : t.ttu.referenced = true) (hx : 2 < t.ttu.x) (hx2 : t.ttu.x + 2 < t.setup.E)
    (jp cp : BitVec 4) : t.zeroMark jp cp = t.zeroMarkFault := by
  have hm : 2 < t.markOffset := by
    unfold State.markOffset
    split <;> omega
  rw [zeroMark_referenced h, if_pos hm]

/-- A zero-mark fault keeps the reference and sets the position anew (R7). -/
theorem zeroMarkFault_eq {t : State} (h : t.ttu.referenced = true) : t.zeroMarkFault =
    { (t.latch .encoderFault).abortAll with ttu := { t.ttu with x := 0, lag := 0, pitchCount := 0 } } := by
  have ht : (t.latch .encoderFault).abortAll.ttu = t.ttu :=
    (abortAll_ttu _).trans ((latch_only t _).keeps .ttu (by decide))
  unfold State.zeroMarkFault Ttu.zeroed
  dsimp only
  rw [ht, ← h]

theorem zeroMarkFault_only (t : State) : ChangesOnly (.ttu :: abortingPieces) t t.zeroMarkFault :=
  (((latch_only t _).comp (abortAll_only _)).comp (setTtu_only _ _)).widen (by decide)

/-- Settles O16: one lemma for each place where the mark can find the position. -/
theorem zeroMarkSetsChecksOrFaults : Obligations.ZeroMarkSetsChecksOrFaults := by
  rintro s t dt jp cp rfl hlive hj hpos
  have hE := setup_E_of_valid (hpos hj).1
  have he : exec (.zeroMark dt jp cp) s = .next ((s.elapse dt).zeroMark jp cp) :=
    congrArg Host.Outcome.next (whenJoined_joined hlive hj _)
  generalize s.elapse dt = t at *
  rw [he]
  refine ⟨fun href => ?_, fun href hx => ?_, fun href hx => ?_, fun href hx => ?_, fun href hx => ?_,
    fun href hx hx2 => ⟨_, rfl, ?_, fun i hi => ?_, ?_, ?_⟩⟩
  · rw [zeroMark_unreferenced href]
    rfl
  · rw [zeroMark_at_zero href hx]
  · rw [zeroMark_ahead href hE hx]
    rfl
  · rw [zeroMark_behind href hE (by decide) (by decide) hx]
    rfl
  · rw [zeroMark_behind href hE (by decide) (by decide) hx]
    rfl
  · rw [zeroMark_far href hx hx2, zeroMarkFault_eq href, latch_abortAll]
  · rw [zeroMark_far href hx hx2, zeroMarkFault_eq href]
    exact latch_abortAll_phase _ hi
  · rw [zeroMark_far href hx hx2, zeroMarkFault_eq href]
    exact abortAll_keepsNotices _ _ (latch_has _ _)
  · rw [zeroMark_far href hx hx2]
    exact zeroMarkFault_only t

end Sys2Proof.Machine
end

section
/-!
What the passing of pitch boundaries brings: the recheck of the waiting claims, the pitch timeout and the cold stop (O17),
and the forward count (O8).
-/
namespace Sys2Proof.Machine

/-! ## The recheck of the claims -/

/-- A head's QUEUED claim has too little time left, whether or not the station owns the head (R73). -/
def State.runsLate (s : State) (i : LocalHead) : Bool :=
  decide ((s.claim i).state = .queued) && decide ((s.head i).phase = .claiming ∨ (s.head i).phase = .flushing)
    && decide (s.remaining i < (s.profile (s.head i).profile).Dmin)

theorem claimTooLate_eq (s : State) (i : LocalHead) : s.claimTooLate i = (s.owns i && s.runsLate i) := by
  simp [State.claimTooLate, State.runsLate, Bool.and_assoc]

/-- The recheck of a claim withdraws it where it runs late: its frame, its state, and the claims of its cycle (R73). -/
theorem recheckClaim_eq (i : LocalHead) (s : State) : State.recheckClaim i s =
    if s.runsLate i then ((s.removeClaimFrame i).updClaim i fun _ => .clear).endClaims i else s := by
  have hc : s.runsLate i = true ↔ (s.claim i).state = .queued
      ∧ ((s.head i).phase = .claiming ∨ (s.head i).phase = .flushing)
      ∧ s.remaining i < (s.profile (s.head i).profile).Dmin := by
    simp [State.runsLate, and_assoc]
  unfold State.recheckClaim
  by_cases h : s.runsLate i = true
  · rw [if_pos h, if_pos (hc.1 h), State.withdrawClaim, (hc.1 h).1]
  · rw [if_neg h, if_neg fun hn => h (hc.2 hn)]

theorem recheckClaim_head (i j : LocalHead) (s : State) : (State.recheckClaim i s).head j =
    if j = i ∧ s.runsLate i = true then { s.head j with claimsEnded := true } else s.head j := by
  rw [recheckClaim_eq]
  by_cases h : s.runsLate i = true
  · by_cases hj : j = i
    · subst hj
      rw [if_pos h, if_pos ⟨rfl, h⟩, State.endClaims, State.head_updHead_same]
      rfl
    · rw [if_pos h, if_neg (by simp [hj]), State.endClaims, State.head_updHead_other _ hj]
      rfl
  · rw [if_neg h, if_neg (by simp [h])]

theorem recheckClaim_claim (i j : LocalHead) (s : State) : (State.recheckClaim i s).claim j =
    if j = i ∧ s.runsLate i = true then .clear else s.claim j := by
  rw [recheckClaim_eq]
  by_cases h : s.runsLate i = true
  · by_cases hj : j = i
    · subst hj
      rw [if_pos h, if_pos ⟨rfl, h⟩]
      exact State.claim_updClaim_same _ j _
    · rw [if_pos h, if_neg (by simp [hj])]
      exact State.claim_updClaim_other (s.removeClaimFrame i) hj _
  · rw [if_neg h, if_neg (by simp [h])]

theorem recheckClaim_lbi (i : LocalHead) (s : State) : (State.recheckClaim i s).lbi =
    { s.lbi with queue := s.lbi.queue.filter fun e => !(s.runsLate i && e.isClaimOf (s.fh + i.val)) } := by
  rw [recheckClaim_eq]
  by_cases h : s.runsLate i = true
  · rw [if_pos h, h]
    rfl
  · rw [if_neg h, Bool.eq_false_iff.2 h]
    simp

/-- Whether a claim runs late is read off its own head and claim, the turret, the setup and the profiles. -/
theorem runsLate_congr {s t : State} {j : LocalHead} (httu : t.ttu = s.ttu) (hsc : t.sc = s.sc)
    (hp : (t.head j).phase = (s.head j).phase) (hk : (t.head j).profile = (s.head j).profile)
    (hc : t.claim j = s.claim j) : t.runsLate j = s.runsLate j := by
  unfold State.runsLate State.remaining State.globalHead State.pc State.setup State.fh State.profile
  rw [httu, hsc, hp, hk, hc]

theorem recheckClaim_ttu (i : LocalHead) (s : State) : (State.recheckClaim i s).ttu = s.ttu :=
  (recheckClaim_only i s).keeps .ttu (by simp)

theorem recheckClaim_sc (i : LocalHead) (s : State) : (State.recheckClaim i s).sc = s.sc := by
  rw [recheckClaim_eq]
  split <;> rfl

/-- The recheck of one claim leaves another's as late or as early as it was; its own is late no more. -/
theorem recheckClaim_runsLate (i j : LocalHead) (s : State) :
    (State.recheckClaim i s).runsLate j = (!decide (j = i) && s.runsLate j) := by
  by_cases hj : j = i
  · subst hj
    by_cases h : s.runsLate j = true
    · have hc := recheckClaim_claim j j s
      rw [if_pos ⟨rfl, h⟩] at hc
      simp [State.runsLate, hc, Claim.clear]
    · rw [recheckClaim_eq, if_neg h]
      simpa using h
  · have hh := recheckClaim_head i j s
    have hc := recheckClaim_claim i j s
    rw [if_neg (by simp [hj])] at hh hc
    rw [runsLate_congr (recheckClaim_ttu i s) (recheckClaim_sc i s) (by rw [hh]) (by rw [hh]) hc]
    simp [hj]

/-- Leaving a head out of a list changes nothing where its own test fails. -/
theorem any_except {l : List LocalHead} {i : LocalHead} {f : LocalHead → Bool} (h : f i = false) :
    (l.any fun j => !decide (j = i) && f j) = l.any f := by
  congr 1
  funext j
  by_cases hj : j = i
  · simp [hj, h]
  · simp [hj]

/-- The rechecks of some heads one after another: each head's claim that runs late is withdrawn, once. -/
theorem recheckList_spec (l : List LocalHead) (s : State) :
    let u := l.foldl (fun t i => State.recheckClaim i t) s
    (∀ j, u.claim j = (if j ∈ l ∧ s.runsLate j = true then .clear else s.claim j)
      ∧ u.head j = (if j ∈ l ∧ s.runsLate j = true then { s.head j with claimsEnded := true } else s.head j))
    ∧ u.lbi = { s.lbi with queue := s.lbi.queue.filter fun e =>
        !(l.any fun i => s.runsLate i && e.isClaimOf (s.fh + i.val)) } := by
  induction l generalizing s with
  | nil => simp
  | cons i l ih =>
    obtain ⟨hheads, hlbi⟩ := ih (State.recheckClaim i s)
    refine ⟨fun j => ?_, ?_⟩
    · obtain ⟨hc, hh⟩ := hheads j
      rw [List.foldl_cons, hc, hh, recheckClaim_runsLate, recheckClaim_claim, recheckClaim_head]
      by_cases hj : j = i
      · subst hj
        cases hl : s.runsLate j <;> simp
      · simp [hj]
    · have hfh : (State.recheckClaim i s).fh = s.fh := by rw [State.fh, State.fh, recheckClaim_sc]
      rw [List.foldl_cons, hlbi, recheckClaim_lbi, hfh]
      simp only [List.filter_filter, recheckClaim_runsLate, List.any_cons, Bool.not_or, Bool.and_assoc]
      congr 1
      refine List.filter_congr fun e _ => ?_
      cases he : s.runsLate i && e.isClaimOf (s.fh + i.val)
      · rw [any_except (f := fun k => s.runsLate k && e.isClaimOf (s.fh + k.val)) he, Bool.and_comm]
      · simp

/-- The recheck of the claims withdraws those with too little time left, and changes nothing else (R73). -/
theorem recheckClaims_spec (s : State) : s.lateClaimsWithdrawn s.recheckClaims := by
  obtain ⟨hheads, hlbi⟩ := recheckList_spec s.owned s
  have hlate : ∀ j, (j ∈ s.owned ∧ s.runsLate j = true) ↔ s.claimTooLate j = true := fun j => by
    rw [claimTooLate_eq, mem_owned, Bool.and_eq_true]
  refine ⟨fun j => ?_, hlbi.trans (congrArg (fun q => { s.lbi with queue := q }) ?_), recheckClaims_only s⟩
  · have h := hheads j
    simp only [hlate] at h
    exact h
  · refine List.filter_congr fun e _ => congrArg Bool.not (Bool.eq_iff_iff.2 ?_)
    simp only [List.any_eq_true, Bool.and_eq_true, ← hlate]
    exact exists_congr fun i => by tauto

/-- Where no claim runs late the recheck does nothing. -/
theorem recheckClaims_of_none {s : State} (h : ∀ i, s.claimTooLate i = false) : s.recheckClaims = s :=
  foldl_keeps (P := fun u => u = s) rfl fun i hi t ht => by
    have hl := h i
    rw [claimTooLate_eq, mem_owned.1 hi, Bool.true_and] at hl
    rw [ht, recheckClaim_eq, if_neg (by simp [hl])]

/-! ## The pitch timeout -/

theorem pitchTimeoutDue_iff (s : State) : s.pitchTimeoutDue = true ↔
    s.joined = true ∧ 1 ≤ s.ttu.pitchCount ∧ s.ttu.pitchStart + 4000000 ≤ s.now := by
  simp [State.pitchTimeoutDue, and_assoc]

/-- The station read as stopped (R10). -/
def State.stopped (s : State) : State :=
  { s with ttu := { s.ttu with tPitch := 4000000 } }

/-- A stopped turret leaves every head as much time as a window can say (R59). -/
theorem stopped_remaining (s : State) (i : LocalHead) : s.stopped.remaining i = 65535 := by
  unfold State.remaining travelTime
  exact if_pos (le_refl 4000000)

theorem stopped_claimTooLate {s : State} {i : LocalHead} (h : s.stopped.claimTooLate i = true) :
    65535 < (s.profile (s.head i).profile).Dmin := by
  rw [claimTooLate_eq] at h
  simp only [State.runsLate, stopped_remaining, Bool.and_eq_true, decide_eq_true_eq] at h
  exact h.2.2

theorem pitchTimeout_due {s : State} (h : s.pitchTimeoutDue = true) : s.pitchTimeout = s.stopped.recheckClaims :=
  if_pos h

/-! ## The cold stop -/

theorem coldStopDue_iff (s : State) : s.coldStopDue = true ↔ s.joined = true ∧ (s.ttu.coldWaits = true
    ∨ s.ttu.coldFired = false ∧ s.ttu.coldStart + s.setup.Tcold * 1000000 ≤ s.now) := by
  simp [State.coldStopDue]

/-- Marking some heads one after another marks each of them once. -/
theorem purgeList_head (l : List LocalHead) (s : State) (j : LocalHead) :
    (l.foldl (fun t i => t.updHead i fun h => { h with purgePending := true }) s).head j =
      { s.head j with purgePending := (s.head j).purgePending || l.contains j } := by
  induction l generalizing s with
  | nil => simp
  | cons i l ih =>
    rw [List.foldl_cons, ih]
    by_cases hj : j = i
    · subst hj
      rw [State.head_updHead_same]
      simp
    · rw [State.head_updHead_other _ hj]
      simp [hj]

/-- A cold stop sets purge-pending on every owned head (R11). -/
theorem coldStop_head {s : State} (h : s.coldStopDue = true) (i : LocalHead) :
    s.coldStop.head i = { s.head i with purgePending := (s.head i).purgePending || s.owns i } := by
  have ho : s.owned.contains i = s.owns i :=
    Bool.eq_iff_iff.2 (by rw [List.contains_iff_mem, mem_owned])
  unfold State.coldStop
  rw [if_pos h, ← ho]
  exact purgeList_head s.owned _ i

/-- Settles O17: the recheck of the claims of a stopped turret, and the purge marks of a cold stop. -/
theorem pitchTimeoutAndColdStop : Obligations.PitchTimeoutAndColdStop := by
  rintro s t dt rfl hlive
  have hp : exec (.pitchTimeout dt) s = .next (s.elapse dt).pitchTimeout :=
    congrArg Host.Outcome.next (whenLive_live hlive _)
  have hc : exec (.coldStop dt) s = .next (s.elapse dt).coldStop :=
    congrArg Host.Outcome.next (whenLive_live hlive _)
  generalize s.elapse dt = t at *
  rw [hp, hc]
  refine ⟨fun hj hcount hdue => ?_, fun hn => ?_, fun hdue => ⟨_, rfl, ?_, fun i => ?_, coldStop_only t⟩, fun hn => ?_⟩
  · have hd := pitchTimeout_due ((pitchTimeoutDue_iff t).2 ⟨hj, hcount, hdue⟩)
    refine ⟨⟨_, rfl, hd ▸ recheckClaims_spec t.stopped⟩, fun i hi => stopped_claimTooLate hi, fun hD => ?_⟩
    rw [hd, recheckClaims_of_none fun i => Bool.eq_false_iff.2 fun hl => ?_]
    · rfl
    · have := stopped_claimTooLate hl
      have := hD i
      omega
  · rw [State.pitchTimeout, if_neg fun hd => ?_]
    obtain ⟨hj, hcount, hdue⟩ := (pitchTimeoutDue_iff t).1 hd
    rcases hn with hn | hn | hn
    · simp [hj] at hn
    · omega
    · omega
  · rw [coldStop_ttu, if_pos ((coldStopDue_iff t).2 hdue)]
  · exact coldStop_head ((coldStopDue_iff t).2 hdue) i
  · rw [State.coldStop, if_neg fun hd => hn ((coldStopDue_iff t).1 hd)]

/-! ## The forward count -/

/-- The station a new crossing arrives at, its events not yet taken: the position moved, and at a pitch boundary the
measurement started or completed and the cold-stop timer restarted (R2, R9, R54). -/
def State.arrived (v : State) : State :=
  { v with ttu := if (v.ttu.x + 1) % v.setup.E % v.pc = 0 then
      { v.ttu with
        x := (v.ttu.x + 1) % v.setup.E,
        tPitch := if v.ttu.pitchCount = 0 then v.ttu.tPitch else min 4000000 (v.now - v.ttu.pitchStart),
        pitchStart := v.now, pitchCount := min 65535 (v.ttu.pitchCount + 1), coldStart := v.now, coldFired := false,
        coldWaits := v.ttu.coldWaits
          || !v.ttu.coldFired && decide (v.ttu.coldStart + v.setup.Tcold * 1000000 ≤ v.now) }
    else { v.ttu with x := (v.ttu.x + 1) % v.setup.E } }

/-- The events of the owned heads at the position arrived at, one after another (R12). -/
def State.eventsTaken (v : State) (jp cp : BitVec 4) : State :=
  v.owned.foldl (fun w i => (v.arrived.eventHere i).elim w (w.takeAngle i jp cp)) v.arrived

/-- Where an event lies is read off the straps, the setup and the position. -/
theorem eventHere_of_same {s t : State} (hr : Piece.resetting.same s t) (hp : Piece.setupParts.same s t)
    (hx : t.ttu.x = s.ttu.x) (i : LocalHead) : t.eventHere i = s.eventHere i := by
  have hset : t.setup = s.setup := State.setup_of_same hp
  unfold State.eventHere State.eventPosition State.pc
  rw [hx, hset, globalHead_of_same hr]

/-- The events at a position do not move it, so each head's event is the one that lay there on arrival (R12). -/
theorem raiseEvents_eq (jp cp : BitVec 4) (l : List LocalHead) {s t : State}
    (h : ChangesOnly (countPieces.erase .ttu) s t) :
    l.foldl (fun w i => State.raiseEvent jp cp i w) t
      = l.foldl (fun w i => (s.eventHere i).elim w (w.takeAngle i jp cp)) t := by
  induction l generalizing t with
  | nil => rfl
  | cons i l ih =>
    have he : t.eventHere i = s.eventHere i := eventHere_of_same (h.keeps .resetting (by decide))
      (h.keeps .setupParts (by decide)) (congrArg Ttu.x (h.keeps .ttu (by decide))) i
    have hi : State.raiseEvent jp cp i t = (s.eventHere i).elim t (t.takeAngle i jp cp) := by
      unfold State.raiseEvent
      rw [he]
      cases s.eventHere i <;> rfl
    rw [List.foldl_cons, List.foldl_cons, ← hi]
    exact ih (h.trans ((raiseEvent_only jp cp i t).widen (by fin_cases i <;> decide)))

theorem eventsTaken_only (v : State) (jp cp : BitVec 4) :
    ChangesOnly (countPieces.erase .ttu) v.arrived (v.eventsTaken jp cp) := by
  have h := eachOwned_raiseEvent_only v.arrived jp cp
  unfold State.eachOwned at h
  rw [raiseEvents_eq jp cp _ (ChangesOnly.refl _ v.arrived)] at h
  exact h

/-- The station one count on, the lag taken up where there is any (R2). -/
def State.movedOn (v : State) : State :=
  { v with ttu := { v.ttu with x := (v.ttu.x + 1) % v.setup.E, lag := v.ttu.lag - 1 } }

theorem forwardMove_lagging {v : State} (h : 0 < v.ttu.lag) (jp cp : BitVec 4) : v.forwardMove jp cp = v.movedOn :=
  if_neg (by omega)

theorem movedOn_coldStopDue {v : State} (hj : v.joined = true) : v.movedOn.coldStopDue = (v.ttu.coldWaits
    || !v.ttu.coldFired && decide (v.ttu.coldStart + v.setup.Tcold * 1000000 ≤ v.now)) := by
  show (v.joined && _) = _
  rw [hj, Bool.true_and]
  rfl

/-- A count without lag arrives at its position with the boundary's measurement made (R9). -/
theorem movedOn_boundary {v : State} (hj : v.joined = true) (h : v.ttu.lag = 0) :
    (if v.movedOn.atBoundary then
      { v.movedOn with ttu := v.movedOn.ttu.boundary v.movedOn.now v.movedOn.coldStopDue } else v.movedOn)
        = v.arrived := by
  have hlag : v.ttu.lag - 1 = v.ttu.lag := by omega
  have hb : v.movedOn.atBoundary = true ↔ (v.ttu.x + 1) % v.setup.E % v.pc = 0 := by
    show (_ == 0) = true ↔ _
    rw [beq_iff_eq]
    rfl
  unfold State.arrived
  by_cases hp : (v.ttu.x + 1) % v.setup.E % v.pc = 0
  · rw [if_pos (hb.2 hp), if_pos hp, movedOn_coldStopDue hj, State.movedOn, hlag]
    rfl
  · rw [if_neg (mt hb.1 hp), if_neg hp, State.movedOn, hlag]

/-- Without lag a forward move is a new crossing: arrival, events, recheck (R2, R9, R12, R73). -/
theorem forwardMove_crossing {v : State} (hj : v.joined = true) (h : v.ttu.lag = 0) (jp cp : BitVec 4) :
    v.forwardMove jp cp = (v.eventsTaken jp cp).recheckClaims := by
  have hm : v.forwardMove jp cp = v.movedOn.crossing jp cp := if_pos h
  have hev := raiseEvents_eq jp cp v.owned (ChangesOnly.refl (countPieces.erase .ttu) v.arrived)
  rw [hm, State.crossing, movedOn_boundary hj h]
  exact congrArg State.recheckClaims hev

theorem forwardMove_arrived_ttu {v : State} (jp cp : BitVec 4) :
    ((v.eventsTaken jp cp).recheckClaims).ttu = v.arrived.ttu :=
  ((recheckClaims_only _).keeps .ttu (by decide)).trans ((eventsTaken_only v jp cp).keeps .ttu (by decide))

/-! ## Where the events lie -/

/-- The angles of a valid setup rise from the infeed to the release within a revolution (R173). -/
theorem setup_angles_of_valid {s : State} (h : s.setupStatus = .valid) :
    0 < s.setup.aC ∧ s.setup.aC < s.setup.aFs ∧ s.setup.aFs < s.setup.aS ∧ s.setup.aS < s.setup.aT
      ∧ s.setup.aT < s.setup.aR ∧ s.setup.aR < s.setup.E := by
  have hv := setup_valid_of_status h
  simp only [Setup.valid, Bool.and_eq_true, decide_eq_true_eq] at hv
  omega

/-- Two offsets less than a revolution that lie at one position are one. -/
theorem offset_eq_of_position_eq {E b m n : Nat} (hm : m < E) (hn : n < E) (h : (b + m) % E = (b + n) % E) : m = n := by
  have := Nat.ModEq.add_left_cancel' b (show (b + m) ≡ (b + n) [MOD E] from h)
  rwa [Nat.ModEq, Nat.mod_eq_of_lt hm, Nat.mod_eq_of_lt hn] at this

/-- With a valid setup the six events of a head lie at six different positions (R12, R173). -/
theorem eventPosition_injective {s : State} (h : s.setupStatus = .valid) (i : LocalHead) {e f : AngleEvent}
    (hef : s.eventPosition i e = s.eventPosition i f) : e = f := by
  obtain ⟨h0, h1, h2, h3, h4, h5⟩ := setup_angles_of_valid h
  have hlt : ∀ e : AngleEvent, e.offset s.setup < s.setup.E := fun e => by cases e <;> simp only [AngleEvent.offset] <;> omega
  have ho := offset_eq_of_position_eq (hlt e) (hlt f) hef
  cases e <;> cases f <;> simp only [AngleEvent.offset, reduceCtorEq] at ho ⊢ <;> omega

/-- The event found at the position is the one that lies there (R12). -/
theorem eventHere_iff {s : State} (h : s.setupStatus = .valid) (i : LocalHead) (e : AngleEvent) :
    s.eventHere i = some e ↔ s.eventPosition i e = s.ttu.x := by
  constructor
  · intro he
    simpa using List.find?_some he
  · intro he
    cases hf : s.eventHere i with
    | none =>
      have := List.find?_eq_none.1 hf e (by cases e <;> simp)
      simp [he] at this
    | some f =>
      have hp : s.eventPosition i f = s.ttu.x := by simpa using List.find?_some hf
      rw [eventPosition_injective h i (hp.trans he.symm)]

theorem arrived_only (v : State) : ChangesOnly [.ttu] v v.arrived :=
  setTtu_only v _

theorem arrived_x (v : State) : v.arrived.ttu.x = (v.ttu.x + 1) % v.setup.E := by
  unfold State.arrived
  dsimp only
  split <;> rfl

/-- Settles O8: in a valid setup the angles of a head differ, so that at most one event is due at a position. -/
theorem forwardCountMovesMeasuresAndRaisesEvents : Obligations.ForwardCountMovesMeasuresAndRaisesEvents := by
  refine ⟨?_, fun v jp cp hj => ⟨fun hl => forwardMove_lagging hl jp cp, fun hl => forwardMove_crossing hj hl jp cp⟩,
    recheckClaims_spec⟩
  rintro s t dt jp cp rfl hlive hj
  have he : exec (.forwardCount dt jp cp) s = .next ((s.elapse dt).forwardCount jp cp) :=
    congrArg Host.Outcome.next (whenJoined_joined hlive hj _)
  generalize s.elapse dt = t at *
  have href : t.ttu.referenced = true → t.forwardCount jp cp = (t.setDir .forward).forwardMove jp cp := fun h => if_pos h
  rw [he]
  refine ⟨fun hr => ?_, fun hr => ?_, fun hr hl => ?_, fun hr hl => ⟨⟨_, rfl, ?_⟩, fun hv i e _ => ?_⟩⟩
  · exact congrArg Host.Outcome.next (if_neg (by simp [hr]))
  · rw [href hr]
    rfl
  · rw [href hr, forwardMove_lagging (v := t.setDir .forward) hl]
    rfl
  · rw [href hr, forwardMove_crossing (v := t.setDir .forward) hj hl]
    exact ⟨forwardMove_arrived_ttu jp cp, recheckClaims_spec _, rfl⟩
  · have hv' : (t.setDir .forward).arrived.setupStatus = .valid := hv
    have hx := arrived_x (t.setDir .forward)
    have hi := eventHere_iff hv' i e
    rw [hx] at hi
    exact hi

end Sys2Proof.Machine
end

section
/-!
Resets, and commands that cannot act: what the supply's fall and the reset pin cut (O6), what changes nothing (O7).
-/
namespace Sys2Proof.Machine

/-! ## The beginning of a reset -/

theorem beginReset_head (s : State) (i : LocalHead) : s.beginReset.head i = (s.head i).cut :=
  PerHead.get_map s.heads Head.cut i

theorem beginReset_linkFresh (s : State) : s.beginReset.linkFresh :=
  ⟨rfl, fun i => by
    rw [show s.beginReset.slot i = .empty from PerHead.get_all _ i]
    exact ⟨rfl, rfl, rfl⟩⟩

/-- What a reset cuts at once (R26, R107, R108, R169). -/
def cutPieces : List Piece :=
  [.link, .inFlight, .receive, .resetting] ++ ofHeads .head ++ ofHeads .slot

theorem beginReset_only (s : State) : ChangesOnly cutPieces s s.beginReset := by
  intro p
  cases p <;> simp [cutPieces, ofHeads, Piece.same, State.beginReset, State.claim, State.learned] <;>
    next i => fin_cases i <;> simp

/-- A cut head is IDLE, holds no record, its valve is closed, and it stays benched where it was (R26). -/
theorem beginReset_heads_cut (s : State) (i : LocalHead) : (s.beginReset.head i).phase = .idle
    ∧ (s.beginReset.head i).bound = none ∧ (s.beginReset.head i).valveOpen = false
    ∧ (s.beginReset.head i).bench = (s.head i).bench := by
  rw [beginReset_head]
  exact ⟨rfl, rfl, rfl, rfl⟩

theorem supplyLow_only (s : State) : ChangesOnly cutPieces s s.supplyLow := by
  refine (beginReset_only s).trans (ChangesOnly.mono (ps := [.resetting]) ?_ (by simp [cutPieces]))
  intro p
  cases p <;> simp [Piece.same, State.supplyLow, State.head, State.claim, State.slot, State.learned]

theorem resetPin_only (s : State) : ChangesOnly (.queue :: (cutPieces ++ ofHeads .learned)) s s.resetPin := by
  refine (beginReset_only s).comp (qs := .queue :: ofHeads .learned) ?_ |>.mono (by simp)
  intro p
  cases p <;> simp [ofHeads, Piece.same, State.resetPin, State.head, State.claim, State.slot, State.learned]
  next i => fin_cases i <;> simp

/-- The reset pin applies the resets that were held over (R145). -/
theorem resetPin_learned (s : State) (i : LocalHead) : s.resetPin.learned i = (s.learned i).applyDue :=
  PerHead.get_map s.vu.slots VerdictSlot.applyDue i

/-- Settles O6: what a reset cuts, read at every head, and the pieces it leaves. -/
theorem resetsCutCyclesWithoutReport : Obligations.ResetsCutCyclesWithoutReport := by
  rintro s t dt rfl
  have hcut := beginReset_heads_cut (s.elapse dt)
  have hlink := beginReset_linkFresh (s.elapse dt)
  refine ⟨⟨_, rfl, rfl, rfl, hlink, rfl, rfl, hcut, supplyLow_only _⟩,
    ⟨_, rfl, rfl, rfl, hlink, rfl, rfl, fun i => ?_, (resetPin_only _).widen (by decide)⟩⟩
  obtain ⟨hp, hb, hv, hbench⟩ := hcut i
  refine ⟨hp, hb, hv, hbench, ?_⟩
  rw [resetPin_learned]
  exact ⟨rfl, rfl, rfl, rfl, rfl⟩

/-! ## Out of place -/

theorem whenJoined_joining {s : State} {dt : Nat} (h : (s.elapse dt).joined = false) (f : State → State) :
    s.whenJoined dt f = s.elapse dt := by
  simp [State.whenJoined, State.whenLive, h]

/-- Settles O7: a part in reset, a part out of reset, and a turret before the join. -/
theorem nothingActsOutOfPlace : Obligations.NothingActsOutOfPlace := by
  refine ⟨fun s c hr hc => ?_, fun s dt addr hcPins fh hr => ?_, fun s dt jp cp hj => ?_⟩
  · rw [exec_eq_whenLive hc, whenLive_inReset hr]
  · exact congrArg Host.Outcome.next (if_pos (by simp [hr]))
  · exact ⟨congrArg Host.Outcome.next (whenJoined_joining hj _), congrArg Host.Outcome.next (whenJoined_joining hj _),
      congrArg Host.Outcome.next (whenJoined_joining hj _), congrArg Host.Outcome.next (whenJoined_joining hj _)⟩

end Sys2Proof.Machine
end

section
/-!
An idle head holds nothing, a head that is not owned is IDLE, and a valve is open in FLUSHING only: what keeps this law at
each head, and the statement (O56).
-/
namespace Sys2Proof.Machine

/-! ## The law at a head -/

/-- The law at one head; `owned` says whether the station owns it (R13, R19, R20, R77). -/
def Head.lawful (owned : Bool) (h : Head) : Prop :=
  (owned = false → h.phase = .idle)
    ∧ (h.phase = .idle → h.bound = none ∧ h.flags = 0 ∧ h.setupDone = false ∧ h.applied = 0)
    ∧ (h.valveOpen = true → h.phase = .flushing)

/-- The law of this file at the station. -/
def State.headsLaw (s : State) : Prop :=
  s.idleHeadsEmpty ∧ s.valvesOnlyInFlush

theorem headsLaw_iff {s : State} : s.headsLaw ↔ ∀ i, (s.head i).lawful (s.owns i) :=
  ⟨fun h i => ⟨(h.1 i).1, (h.1 i).2, h.2 i⟩, fun h => ⟨fun i => ⟨(h i).1, (h i).2.1⟩, fun i => (h i).2.2⟩⟩

/-- An open cycle is lawful at an owned head whose valve is open in FLUSHING only. -/
theorem Head.lawful_of_open {owned : Bool} {h : Head} (ho : owned = true) (hp : h.phase ≠ .idle)
    (hv : h.valveOpen = true → h.phase = .flushing) : h.lawful owned :=
  ⟨fun hf => by simp [ho] at hf, fun hi => absurd hi hp, hv⟩

/-- The end of a cycle is lawful where the valve is closed (R20, R23). -/
theorem Head.endCycle_lawful (owned : Bool) {h : Head} (hv : h.valveOpen = false) : h.endCycle.lawful owned :=
  ⟨fun _ => rfl, fun _ => ⟨rfl, rfl, rfl, rfl⟩, fun ho => by simp [Head.endCycle, hv] at ho⟩

theorem Head.lawful.owned {owned : Bool} {h : Head} (hl : h.lawful owned) (hp : h.phase ≠ .idle) : owned = true := by
  by_contra ho
  exact hp (hl.1 (Bool.eq_false_iff.2 ho))

theorem Head.lawful.valveClosed {owned : Bool} {h : Head} (hl : h.lawful owned) (hp : h.phase ≠ .flushing) :
    h.valveOpen = false := by
  by_contra hv
  exact hp (hl.2.2 (by simpa using hv))

/-- Two heads stand alike in what the law speaks of. -/
structure Head.SameCycle (h h' : Head) : Prop where
  phase : h'.phase = h.phase
  bound : h'.bound = h.bound
  flags : h'.flags = h.flags
  setupDone : h'.setupDone = h.setupDone
  applied : h'.applied = h.applied
  valveOpen : h'.valveOpen = h.valveOpen

theorem Head.SameCycle.refl (h : Head) : h.SameCycle h :=
  ⟨rfl, rfl, rfl, rfl, rfl, rfl⟩

theorem Head.SameCycle.trans {h h' h'' : Head} (h₁ : h.SameCycle h') (h₂ : h'.SameCycle h'') : h.SameCycle h'' :=
  ⟨h₂.phase.trans h₁.phase, h₂.bound.trans h₁.bound, h₂.flags.trans h₁.flags, h₂.setupDone.trans h₁.setupDone,
    h₂.applied.trans h₁.applied, h₂.valveOpen.trans h₁.valveOpen⟩

theorem Head.SameCycle.lawful {h h' : Head} (hs : h.SameCycle h') {owned : Bool} (hl : h.lawful owned) :
    h'.lawful owned := by
  unfold Head.lawful at *
  rw [hs.phase, hs.bound, hs.flags, hs.setupDone, hs.applied, hs.valveOpen]
  exact hl

/-! ## Carrying the law to a changed state -/

/-- What changes one head alone keeps the law where it keeps it at that head. -/
theorem headsLaw_of_head {ps : List Piece} {s t : State} {i : LocalHead} (hs : s.headsLaw) (h : ChangesOnly ps s t)
    (hr : .resetting ∉ ps) (ho : ∀ j, j ≠ i → .head j ∉ ps)
    (hi : (s.head i).lawful (s.owns i) → (t.head i).lawful (s.owns i)) : t.headsLaw := by
  rw [headsLaw_iff] at hs ⊢
  intro j
  rw [owns_of_same (h.keeps .resetting hr)]
  by_cases hj : j = i
  · subst hj
    exact hi (hs j)
  · rw [head_of_only h j (ho j hj)]
    exact hs j

/-- What changes no head keeps the law. -/
theorem headsLaw_of_only {ps : List Piece} {s t : State} (hs : s.headsLaw) (h : ChangesOnly ps s t)
    (hr : .resetting ∉ ps) (ho : ∀ j, .head j ∉ ps) : t.headsLaw :=
  headsLaw_of_head (i := 0) hs h hr (fun j _ => ho j) fun hl => by
    rw [head_of_only h 0 (ho 0)]
    exact hl

/-- An action that at each owned head keeps the law keeps it when it is taken at every owned head. -/
theorem eachOwned_headsLaw {s : State} {act : LocalHead → State → State} (hs : s.headsLaw)
    (hk : ∀ i t, Piece.resetting.same t (act i t)) (h : ∀ i t, t.owns i = true → t.headsLaw → (act i t).headsLaw) :
    (s.eachOwned act).headsLaw :=
  (foldl_keeps (P := fun t => Piece.resetting.same s t ∧ t.headsLaw) ⟨Piece.same_refl s .resetting, hs⟩
    fun i hi t ⟨hst, ht⟩ => ⟨Piece.same_trans (p := .resetting) hst (hk i t),
      h i t ((owns_of_same hst i).trans (mem_owned.1 hi)) ht⟩).2

/-! ## Changes within a cycle -/

theorem updHead_headsLaw {s : State} {i : LocalHead} {f : Head → Head} (hs : s.headsLaw)
    (h : (s.head i).lawful (s.owns i) → (f (s.head i)).lawful (s.owns i)) : (s.updHead i f).headsLaw :=
  headsLaw_of_head (i := i) hs (updHead_only s i f) (by simp) (fun j hj => by simp [hj]) fun hl => by
    rw [State.head_updHead_same]
    exact h hl

theorem flag_headsLaw {s : State} {i : LocalHead} (hs : s.headsLaw) (h : (s.head i).phase ≠ .idle) (f : JarFlag) :
    (s.flag i f).headsLaw :=
  updHead_headsLaw hs fun hl => Head.lawful_of_open (hl.owned h) h hl.2.2

theorem markJog_headsLaw {s : State} {i : LocalHead} (hs : s.headsLaw) (h : (s.head i).phase ≠ .idle) :
    (s.markJog i).headsLaw := by
  unfold State.markJog
  split
  · exact flag_headsLaw hs h _
  · exact hs

theorem markJog_phase (s : State) (i : LocalHead) : ((s.markJog i).head i).phase = (s.head i).phase := by
  rw [markJog_eq, State.head_updHead_same]

theorem markJog_valveOpen (s : State) (i : LocalHead) : ((s.markJog i).head i).valveOpen = (s.head i).valveOpen := by
  rw [markJog_eq, State.head_updHead_same]

theorem withdrawClaim_sameCycle (s : State) (i : LocalHead) : (s.head i).SameCycle ((s.withdrawClaim i).head i) := by
  rw [withdrawClaim_head]
  exact ⟨rfl, rfl, rfl, rfl, rfl, rfl⟩

theorem benchHead_sameCycle (s : State) (i : LocalHead) (r : BenchReason) :
    (s.head i).SameCycle ((s.benchHead i r).head i) := by
  by_cases h : (s.head i).bench = none
  · rw [(benchHead_becomesBenched h r).1]
    exact ⟨rfl, rfl, rfl, rfl, rfl, rfl⟩
  · rw [benchHead_benched h]
    exact .refl _

theorem driveFailed_sameCycle (s : State) (i : LocalHead) : (s.head i).SameCycle ((s.driveFailed i).head i) := by
  have hu : (s.head i).SameCycle
      ((s.updHead i fun h => { h with driveFailures := min Config.failureMax (h.driveFailures + 1) }).head i) := by
    rw [State.head_updHead_same]
    exact ⟨rfl, rfl, rfl, rfl, rfl, rfl⟩
  unfold State.driveFailed
  dsimp only
  split
  · have hb := benchHead_sameCycle
      ((s.updHead i fun h => { h with driveFailures := min Config.failureMax (h.driveFailures + 1) }).latch .driveFault)
      i .drive
    rw [head_latch] at hb
    exact hu.trans hb
  · exact hu

/-- The end of a head's cycle with its valve closed keeps the law. -/
theorem finish_headsLaw {s w : State} {ps : List Piece} {i : LocalHead} {o : JarOutcome} {torque angle : Nat}
    (hs : s.headsLaw) (h : ChangesOnly ps s w) (hr : .resetting ∉ ps) (ho : ∀ j, j ≠ i → .head j ∉ ps)
    (hv : (s.head i).lawful (s.owns i) → (w.head i).valveOpen = false) : (w.finish i o torque angle).headsLaw :=
  headsLaw_of_head (i := i) hs (h.comp (finish_only w i o torque angle))
    (by simp [finishPieces, handOffPieces, reporting, hr])
    (fun j hj => by simp [finishPieces, handOffPieces, reporting, ho j hj, hj]) fun hl => by
      rw [finish_head]
      exact Head.endCycle_lawful _ (hv hl)

/-! ## Claims and admissions -/

/-- An admission opens the valve of a head in CLAIMING and makes it FLUSHING (R19). -/
theorem reportAdmission_headsLaw {s : State} (hs : s.headsLaw) (i : LocalHead) (dwell : Nat) (x : Bool) :
    (s.reportAdmission i dwell x).headsLaw := by
  unfold State.reportAdmission
  split
  · next hm =>
    have hp : (s.head i).phase ≠ .idle := by simp [((mayClaim_iff s i).1 hm).1]
    have ho : (s.updHead i fun h => h.openFor s.now dwell x).headsLaw :=
      updHead_headsLaw hs fun hl => Head.lawful_of_open (hl.owned hp) (by simp [Head.openFor]) fun _ => rfl
    refine markJog_headsLaw ho ?_
    rw [State.head_updHead_same]
    simp [Head.openFor]
  · exact headsLaw_of_only hs (handIn_any s _) (by decide) (by decide)

theorem announce_headsLaw {s : State} (hs : s.headsLaw) (i : LocalHead) (c : Claim) : (s.announce i c).headsLaw := by
  have hc : ∀ f, (s.updClaim i f).headsLaw := fun f => headsLaw_of_only hs (updClaim_only s i f) (by simp) (by simp)
  have hin : ∀ {t : State} f, t.headsLaw → (t.handIn f).headsLaw := fun f ht =>
    headsLaw_of_only ht (handIn_any _ f) (by decide) (by decide)
  unfold State.announce
  dsimp only
  split
  · split
    · exact hin _ (reportAdmission_headsLaw (headsLaw_of_only hs
        ((writeEntry_only s _ _ _ _).comp (updClaim_only _ i _)) (by simp) (by simp)) i _ _)
    · exact headsLaw_of_only (hc fun _ => c) ((count_claimsRefused_only _ _).comp (claimRefused_only _ i)) (by simp)
        (by simp)
  · exact hin _ (hc _)

theorem formClaim_headsLaw {s : State} {i : LocalHead} (hs : s.headsLaw) (h : (s.head i).phase ≠ .idle) :
    (s.formClaim i).headsLaw := by
  unfold State.formClaim
  dsimp only
  split
  · have hc : (s.updClaim i fun _ => .clear).headsLaw := headsLaw_of_only hs (updClaim_only s i _) (by simp) (by simp)
    exact updHead_headsLaw hc (Head.SameCycle.lawful ⟨rfl, rfl, rfl, rfl, rfl, rfl⟩)
  · split
    · exact announce_headsLaw (flag_headsLaw hs h _) i _
    · exact announce_headsLaw hs i _

theorem claimRetry_headsLaw {s : State} (hs : s.headsLaw) (i : LocalHead) : (s.claimRetry i).headsLaw := by
  have hc : (s.updClaim i fun _ => .clear).headsLaw := headsLaw_of_only hs (updClaim_only s i _) (by simp) (by simp)
  unfold State.claimRetry
  dsimp only
  split
  · split
    · split
      · next hm => exact formClaim_headsLaw hc (by simp [((mayClaim_iff s i).1 hm).1])
      · exact hc
    · exact hs
  all_goals exact hs

theorem claimEcho_headsLaw {s : State} (hs : s.headsLaw) (p : BitVec 32) : (s.claimEcho p).headsLaw := by
  unfold State.claimEcho
  split
  · exact hs
  · split
    · next i _ =>
      unfold State.headEcho
      dsimp only
      split
      · exact headsLaw_of_only hs (updClaim_only s i _) (by simp) (by simp)
      · split
        · exact reportAdmission_headsLaw (headsLaw_of_only hs
            ((writeEntry_only s _ _ _ _).comp (updClaim_only _ i _)) (by simp) (by simp)) i _ _
        · exact headsLaw_of_only hs ((count_claimsRefused_only s _).comp (claimRefused_only _ i)) (by simp) (by simp)
    · exact hs

theorem recheckClaim_headsLaw {s : State} (hs : s.headsLaw) (i : LocalHead) : (State.recheckClaim i s).headsLaw := by
  unfold State.recheckClaim
  split
  · exact headsLaw_of_head hs (withdrawClaim_only s i) (by simp) (fun j hj => by simp [hj])
      (withdrawClaim_sameCycle s i).lawful
  · exact hs

theorem recheckClaims_headsLaw {s : State} (hs : s.headsLaw) : s.recheckClaims.headsLaw :=
  eachOwned_headsLaw hs (fun i t => (recheckClaim_only i t).keeps .resetting (by simp))
    fun i _ _ ht => recheckClaim_headsLaw ht i

theorem valveCloseTime_headsLaw {s : State} (hs : s.headsLaw) (i : LocalHead) : (s.valveCloseTime i).headsLaw := by
  by_cases hd : s.valveCloseDue i = true
  · refine headsLaw_of_head (i := i) hs (valveCloseTime_only s i) (by simp [reporting]) (fun j hj => by simp [reporting, hj])
      fun hl => ?_
    have hp : (s.head i).phase = .flushing := ((valveCloseDue_iff s i).1 hd).1
    rw [valveCloseTime_head hd]
    exact Head.lawful_of_open (hl.owned (by simp [hp])) (by simp [hp]) fun hv => by simp at hv
  · rw [State.valveCloseTime, if_neg hd]
    exact hs

/-! ## The angle events -/

/-- An angle event keeps the law where it keeps it at its own head. -/
theorem headsLaw_of_angle {s t : State} {i : LocalHead} (hs : s.headsLaw) (h : ChangesOnly (anglePieces i) s t)
    (hi : (s.head i).lawful (s.owns i) → (t.head i).lawful (s.owns i)) : t.headsLaw :=
  headsLaw_of_head hs h (by simp [anglePieces, finishPieces, handOffPieces, reporting])
    (fun j hj => by simp [anglePieces, finishPieces, handOffPieces, reporting, hj]) hi

/-- A jar that is only reported at its pass leaves its head as it was (R15). -/
theorem pass_reported_head (s : State) (i : LocalHead) (f : Counters → Counters) (r : JarReport) :
    ((s.passTaken i f).reportJar i false r).head i = s.head i :=
  head_of_only (reportJar_only _ i false r) i (by simp [reporting])

theorem idlePass_headsLaw {s : State} {i : LocalHead} (hs : s.headsLaw) (ho : s.owns i = true)
    (hp : (s.head i).phase = .idle) (jar : Bool) : (s.idlePass i jar).headsLaw := by
  refine headsLaw_of_angle hs (idlePass_only s i jar) fun hl => ?_
  cases jar with
  | false => exact hl
  | true =>
    by_cases hb : (s.head i).bench = none
    · rw [idlePass_active hb]
      dsimp only
      split
      · have hv := hl.valveClosed (by simp [hp])
        rw [beginCycle_head]
        exact Head.lawful_of_open ho (by simp [State.seatedHead, Head.seat]) fun h =>
          absurd (h.symm.trans hv) (by simp)
      · rw [pass_reported_head]
        exact hl
    · rw [idlePass_benched hb, pass_reported_head]
      exact hl

theorem closeOut_headsLaw {s : State} {i : LocalHead} (hs : s.headsLaw) (hp : (s.head i).phase = .releasing) :
    (s.closeOut i).headsLaw := by
  refine headsLaw_of_angle hs (closeOut_only s i) fun hl => ?_
  have hv := hl.valveClosed (by simp [hp])
  rw [closeOut_eq_driveFailed]
  refine (driveFailed_sameCycle _ i).lawful ?_
  rw [closing_finish_head]
  exact Head.endCycle_lawful _ hv

theorem infeedPass_headsLaw {s : State} {i : LocalHead} (hs : s.headsLaw) (ho : s.owns i = true) (jar : Bool) :
    (s.infeedPass i jar).headsLaw := by
  cases hp : (s.head i).phase with
  | idle =>
    rw [infeedPass_idle hp]
    exact idlePass_headsLaw hs ho hp jar
  | releasing =>
    have hoc := (owns_of_same ((closeOut_only s i).keeps .resetting
      (by simp [anglePieces, finishPieces, handOffPieces, reporting])) i).trans ho
    rw [infeedPass_releasing hp, infeedPass_idle (closeOut_phase s i)]
    exact idlePass_headsLaw (closeOut_headsLaw hs hp) hoc (closeOut_phase s i) jar
  | _ =>
    unfold State.infeedPass
    rw [hp]
    exact hs

theorem capPick_headsLaw {s : State} (hs : s.headsLaw) (i : LocalHead) (cap : Bool) : (s.capPick i cap).headsLaw := by
  by_cases hp : (s.head i).phase = .seated
  · cases cap with
    | true =>
      rw [capPick_cap hp]
      exact updHead_headsLaw hs fun hl => Head.lawful_of_open (hl.owned (by simp [hp])) (by simp) fun h =>
        absurd (h.symm.trans (hl.valveClosed (by simp [hp]))) (by simp)
    | false =>
      rw [capPick_noCap hp]
      exact finish_headsLaw hs (noCapState_only s i) (by simp) (fun j hj => by simp [hj]) fun hl => by
        rw [noCapState_head]
        exact hl.valveClosed (by simp [hp])
  · rw [State.capPick, if_neg hp]
    exact hs

theorem flushStart_headsLaw {s : State} (hs : s.headsLaw) (i : LocalHead) : (s.flushStart i).headsLaw := by
  by_cases hp : (s.head i).phase = .capHeld
  · have hopen : ∀ h : Head, h.phase = .claiming → h.valveOpen = (s.head i).valveOpen →
        (s.updHead i fun _ => h).headsLaw := fun h hc hv =>
      updHead_headsLaw hs fun hl => Head.lawful_of_open (hl.owned (by simp [hp])) (by simp [hc]) fun ho =>
        absurd (ho.symm.trans (hv.trans (hl.valveClosed (by simp [hp])))) (by simp)
    by_cases hb : (s.head i).bench = none
    · rw [flushStart_active hp hb]
      dsimp only
      split
      · refine formClaim_headsLaw (hopen _ rfl rfl) ?_
        rw [State.head_updHead_same]
        simp
      · exact hopen _ rfl rfl
    · rw [flushStart_benched hp hb]
      exact hopen _ rfl rfl
  · rw [State.flushStart, if_neg hp]
    exact hs

theorem seat_headsLaw {s : State} (hs : s.headsLaw) (i : LocalHead) : (s.seat i).headsLaw := by
  refine headsLaw_of_angle hs (seat_only s i) fun hl => ?_
  cases hp : (s.head i).phase with
  | claiming =>
    rw [(seating_then_head (seat_claiming hp)).1]
    exact Head.lawful_of_open (hl.owned (by simp [hp])) (by simp) fun h =>
      absurd (h.symm.trans (hl.valveClosed (by simp [hp]))) (by simp)
  | flushing =>
    cases hv : (s.head i).valveOpen with
    | true =>
      rw [seat_flushing_open_head hp hv]
      exact Head.lawful_of_open (hl.owned (by simp [hp])) (by simp) fun h => by simp at h
    | false =>
      rw [(seating_then_head (seat_flushing_closed hp hv)).1]
      exact Head.lawful_of_open (hl.owned (by simp [hp])) (by simp) fun h => absurd (h.symm.trans hv) (by simp)
  | _ =>
    unfold State.seat
    rw [hp]
    exact hl

theorem torqueStart_headsLaw {s : State} (hs : s.headsLaw) (i : LocalHead) : (s.torqueStart i).headsLaw := by
  by_cases hp : (s.head i).phase = .pressed
  · refine headsLaw_of_angle hs (torqueStart_only s i) fun hl => ?_
    rw [torqueStart_pressed hp, head_updSlot, State.head_updHead_same]
    exact Head.lawful_of_open (hl.owned (by simp [hp])) (by simp) fun h =>
      absurd (h.symm.trans (hl.valveClosed (by simp [hp]))) (by simp)
  · rw [State.torqueStart, if_neg hp]
    exact hs

theorem release_headsLaw {s : State} (hs : s.headsLaw) (i : LocalHead) : (s.release i).headsLaw := by
  by_cases hp : (s.head i).phase = .torquing
  · refine headsLaw_of_angle hs (release_only s i) fun hl => ?_
    rw [release_torquing hp, head_updSlot, State.head_updHead_same]
    exact Head.lawful_of_open (hl.owned (by simp [hp])) (by simp) fun h =>
      absurd (h.symm.trans (hl.valveClosed (by simp [hp]))) (by simp)
  · rw [State.release, if_neg hp]
    exact hs

/-- The angle events go to owned heads, so a cycle begins at an owned head only (R12). -/
theorem takeAngle_headsLaw {s : State} {i : LocalHead} (hs : s.headsLaw) (ho : s.owns i = true) (jp cp : BitVec 4)
    (e : AngleEvent) : (s.takeAngle i jp cp e).headsLaw := by
  cases e with
  | infeed => exact infeedPass_headsLaw hs ho _
  | capPick => exact capPick_headsLaw hs i _
  | flushStart => exact flushStart_headsLaw hs i
  | seat => exact seat_headsLaw hs i
  | torqueStart => exact torqueStart_headsLaw hs i
  | release => exact release_headsLaw hs i

end Sys2Proof.Machine
end

section
/-!
The law of idle heads and open valves through counts, aborts, the drive link, returns and resets, and the statement (O56).
-/
namespace Sys2Proof.Machine

/-! ## Counts and aborts -/

theorem setTtu_headsLaw {s : State} (hs : s.headsLaw) (u : Ttu) : State.headsLaw { s with ttu := u } :=
  headsLaw_of_only hs (setTtu_only s u) (by decide) (by decide)

theorem setDir_headsLaw {s : State} (hs : s.headsLaw) (d : Direction) : (s.setDir d).headsLaw :=
  headsLaw_of_only hs (setDir_only s d) (by decide) (by decide)

theorem latch_headsLaw {s : State} (hs : s.headsLaw) (n : Notice) : (s.latch n).headsLaw :=
  headsLaw_of_only hs (latch_only s n) (by decide) (by decide)

theorem raiseEvent_headsLaw {s : State} {i : LocalHead} (hs : s.headsLaw) (ho : s.owns i = true) (jp cp : BitVec 4) :
    (State.raiseEvent jp cp i s).headsLaw := by
  unfold State.raiseEvent
  split
  · exact takeAngle_headsLaw hs ho jp cp _
  · exact hs

theorem crossing_headsLaw {s : State} (hs : s.headsLaw) (jp cp : BitVec 4) : (s.crossing jp cp).headsLaw := by
  have hr : ∀ {t : State}, t.headsLaw → (t.eachOwned (State.raiseEvent jp cp)).recheckClaims.headsLaw := fun ht =>
    recheckClaims_headsLaw (eachOwned_headsLaw ht
      (fun i u => (raiseEvent_only jp cp i u).keeps .resetting
        (by simp [anglePieces, finishPieces, handOffPieces, reporting]))
      fun i u ho hu => raiseEvent_headsLaw hu ho jp cp)
  unfold State.crossing
  dsimp only
  split
  · exact hr (setTtu_headsLaw hs _)
  · exact hr hs

theorem forwardMove_headsLaw {s : State} (hs : s.headsLaw) (jp cp : BitVec 4) : (s.forwardMove jp cp).headsLaw := by
  unfold State.forwardMove
  dsimp only
  split
  · exact crossing_headsLaw (setTtu_headsLaw hs _) jp cp
  · exact setTtu_headsLaw hs _

theorem forwardCount_headsLaw {s : State} (hs : s.headsLaw) (jp cp : BitVec 4) : (s.forwardCount jp cp).headsLaw := by
  unfold State.forwardCount
  dsimp only
  split
  · exact forwardMove_headsLaw (setDir_headsLaw hs _) jp cp
  · exact setDir_headsLaw hs _

theorem correctForward_headsLaw {s : State} (hs : s.headsLaw) (jp cp : BitVec 4) (n : Nat) :
    (State.correctForward jp cp n s).headsLaw := by
  induction n generalizing s with
  | zero => exact hs
  | succ n ih => exact ih (forwardMove_headsLaw hs jp cp)

/-- An abort closes the valve of a head in FLUSHING before it ends the cycle, and the law says that no other valve is
open (R13, R20). -/
theorem abortEnd_valveOpen {s : State} {i : LocalHead} (hl : (s.head i).lawful (s.owns i)) :
    ((s.abortEnd i).head i).valveOpen = false := by
  rw [abortEnd_head]
  show ((s.head i).valveOpen && !decide (s.head i).flushOpen) = false
  by_cases hv : (s.head i).valveOpen = true
  · simp [Head.flushOpen, hl.2.2 hv, hv]
  · simp [hv]

theorem abortHead_headsLaw {s : State} (hs : s.headsLaw) (i : LocalHead) : (State.abortHead i s).headsLaw := by
  by_cases hp : (s.head i).phase = .idle
  · rw [abortHead_idle hp]
    exact hs
  · rw [abortHead_open hp]
    exact finish_headsLaw hs (abortEnd_only s i) (by simp [reporting]) (fun j hj => by simp [reporting, hj])
      abortEnd_valveOpen

theorem abortAll_headsLaw {s : State} (hs : s.headsLaw) : s.abortAll.headsLaw :=
  eachOwned_headsLaw hs (fun i t => (abortHead_only i t).keeps .resetting
    (by simp [abortPieces, finishPieces, handOffPieces, reporting])) fun i _ _ ht => abortHead_headsLaw ht i

theorem reverseCount_headsLaw {s : State} (hs : s.headsLaw) : s.reverseCount.headsLaw := by
  have hb : ∀ {t : State} (d : Direction), t.headsLaw → (t.beginReverse d).headsLaw := fun d ht =>
    headsLaw_of_only ht (beginReverse_only _ d) (by decide) (by decide)
  unfold State.reverseCount
  dsimp only
  split
  · exact hb _ (abortAll_headsLaw (setTtu_headsLaw (setDir_headsLaw hs _) _))
  · exact hb _ (setDir_headsLaw hs _)

theorem illegalStep_headsLaw {s : State} (hs : s.headsLaw) : s.illegalStep.headsLaw := by
  unfold State.illegalStep
  split
  · exact setTtu_headsLaw (abortAll_headsLaw (latch_headsLaw hs _)) _
  · exact latch_headsLaw hs _

theorem zeroMark_headsLaw {s : State} (hs : s.headsLaw) (jp cp : BitVec 4) : (s.zeroMark jp cp).headsLaw := by
  unfold State.zeroMark
  split
  · exact setTtu_headsLaw hs _
  · split
    · exact setTtu_headsLaw (abortAll_headsLaw (latch_headsLaw hs _)) _
    · split
      · exact hs
      · split
        · exact setTtu_headsLaw hs _
        · exact correctForward_headsLaw hs jp cp _

theorem pitchTimeout_headsLaw {s : State} (hs : s.headsLaw) : s.pitchTimeout.headsLaw := by
  unfold State.pitchTimeout
  split
  · exact recheckClaims_headsLaw (setTtu_headsLaw hs _)
  · exact hs

/-- A cold stop marks heads for a purge and leaves their cycles as they are (R11). -/
theorem coldStop_headsLaw {s : State} (hs : s.headsLaw) : s.coldStop.headsLaw := by
  by_cases hd : s.coldStopDue = true
  · rw [headsLaw_iff] at hs ⊢
    intro i
    rw [owns_of_same ((coldStop_only s).keeps .resetting (by decide)), coldStop_head hd]
    exact (hs i : (s.head i).lawful (s.owns i))
  · rw [State.coldStop, if_neg hd]
    exact hs

/-! ## The drive link -/

theorem countCompletion_sameCycle (s : State) (i : LocalHead) (c : ReplyClass) :
    (s.head i).SameCycle ((s.countCompletion i c).head i) := by
  cases c with
  | success =>
    rw [State.countCompletion, State.driveSucceeded, State.head_updHead_same]
    exact ⟨rfl, rfl, rfl, rfl, rfl, rfl⟩
  | failure => exact driveFailed_sameCycle s i
  | busy => exact .refl _

theorem countCompletion_headsLaw {s : State} (hs : s.headsLaw) (i : LocalHead) (c : ReplyClass) :
    (s.countCompletion i c).headsLaw :=
  headsLaw_of_head (i := i) hs (countCompletion_only s i c) (by simp [reporting])
    (fun j hj => by simp [reporting, hj]) (countCompletion_sameCycle s i c).lawful

/-- A change of an open head that is not in FLUSHING, and then the end of its cycle (R52). -/
theorem updHead_finish_headsLaw {s : State} {i : LocalHead} {f : Head → Head} {o : JarOutcome} {torque angle : Nat}
    (hs : s.headsLaw) (hp : (s.head i).phase ≠ .flushing) (hf : (f (s.head i)).valveOpen = (s.head i).valveOpen) :
    ((s.updHead i f).finish i o torque angle).headsLaw :=
  finish_headsLaw hs (updHead_only s i f) (by simp) (fun j hj => by simp [hj]) fun hl => by
    rw [State.head_updHead_same, hf]
    exact hl.valveClosed hp

/-- What a completion does to a head in a cycle keeps the law; RESULT completes in RELEASING only (R47, R52). -/
theorem applyCompletion_headsLaw {s : State} {i : LocalHead} {k : DriveKind} (hs : s.headsLaw)
    (hi : (s.head i).phase ≠ .idle) (hk : k = .result → (s.head i).phase = .releasing) (c : ReplyClass)
    (torque angle : Nat) : (s.applyCompletion i k c torque angle).headsLaw := by
  have hm := markJog_headsLaw hs hi
  have hmi : ((s.markJog i).head i).phase ≠ .idle := by rw [markJog_phase]; exact hi
  have hmf : k = .result → ((s.markJog i).head i).phase ≠ .flushing := fun h => by simp [markJog_phase, hk h]
  cases k with
  | setup =>
    cases c with
    | success => exact updHead_headsLaw hm fun hl => Head.lawful_of_open (hl.owned hmi) hmi hl.2.2
    | failure => exact hm
    | busy => exact hm
  | start =>
    cases c with
    | failure => exact flag_headsLaw hm hmi _
    | success => exact hm
    | busy => exact hm
  | result =>
    cases c with
    | success => exact updHead_finish_headsLaw hm (hmf rfl) rfl
    | failure => exact updHead_finish_headsLaw hm (hmf rfl) rfl
    | busy => exact headsLaw_of_only hm (updSlot_only _ i _) (by simp) (by simp)
  | stop => exact hs

theorem completionApplies_open {s : State} {t : Transaction} (h : s.completionApplies t = true) :
    (s.head t.head).phase ≠ .idle ∧ (t.request.kind = .result → (s.head t.head).phase = .releasing) := by
  simp only [State.completionApplies, Bool.and_eq_true, Bool.or_eq_true, decide_eq_true_eq] at h
  obtain ⟨⟨_, hi⟩, hk⟩ := h
  exact ⟨hi, fun hr => hk.resolve_left fun hn => hn hr⟩

theorem complete_headsLaw {s : State} (hs : s.headsLaw) (t : Transaction) (reply : BitVec 48) :
    (s.complete t reply).headsLaw := by
  have hc : State.headsLaw { s with dlc := { s.dlc with current := none } } :=
    headsLaw_of_only hs (setCurrent_only s none) (by decide) (by decide)
  have hcc := countCompletion_headsLaw hc t.head (judgeReply t.request.kind reply)
  have hp := (countCompletion_sameCycle { s with dlc := { s.dlc with current := none } } t.head
    (judgeReply t.request.kind reply)).phase
  unfold State.complete
  dsimp only
  split
  · next ha =>
    obtain ⟨hi, hk⟩ := completionApplies_open ha
    exact applyCompletion_headsLaw hcc (fun h => hi (hp.symm.trans h)) (fun h => hp.trans (hk h)) _ _ _
  · exact hcc

theorem transactionComplete_headsLaw {s : State} (hs : s.headsLaw) (reply : BitVec 48) :
    (s.transactionComplete reply).headsLaw := by
  unfold State.transactionComplete
  split
  · split
    · exact complete_headsLaw hs _ reply
    · exact hs
  · exact hs

/-! ## Verdicts and returns -/

theorem teach_sameCycle (s : State) (i : LocalHead) (e : AwaitingEntry) (f : Finding) (depth : Nat) :
    (s.head i).SameCycle ((s.teach i e f depth).head i) := by
  have hl : ∀ g, (s.updLearned i g).head i = s.head i := fun g => head_of_only (updLearned_only s i g) i (by simp)
  unfold State.teach
  dsimp only
  split
  · rw [← hl]
    exact benchHead_sameCycle _ i _
  · rw [hl]
    exact .refl _

theorem matchVerdict_sameCycle (s : State) (i : LocalHead) (e : AwaitingEntry) (f : Finding) (depth : Nat) :
    (s.head i).SameCycle ((s.matchVerdict i e f depth).head i) := by
  have hm : (s.matchEntry i e f).head i = s.head i := by simp [State.matchEntry, State.head]
  unfold State.matchVerdict
  dsimp only
  split
  · rw [← hm]
    exact teach_sameCycle _ i e f depth
  · rw [hm]
    exact .refl _

theorem takeVerdict_headsLaw {s : State} (hs : s.headsLaw) (src : Address) (p : BitVec 56) :
    (s.takeVerdict src p).headsLaw := by
  unfold State.takeVerdict
  split
  · exact hs
  · split
    · exact hs
    · split
      · exact headsLaw_of_only hs (count_lateVerdicts_only s) (by decide) (by decide)
      · split
        · exact headsLaw_of_only hs (count_mismatches_only s) (by decide) (by decide)
        · split
          · next i _ =>
            exact headsLaw_of_head (i := i) hs (matchVerdict_only s i _ _ _) (by simp [matchPieces, reporting])
              (fun j hj => by simp [matchPieces, reporting, hj]) (matchVerdict_sameCycle s i _ _ _).lawful
          · exact hs

/-- A return ends a head's bench and leaves its cycle as it is (R141). -/
theorem returnHead_headsLaw {s : State} (hs : s.headsLaw) (b : Bool) (i : LocalHead) : (s.returnHead b i).headsLaw := by
  have hsend : ∀ {t : State} (o : Occasion), t.headsLaw → (t.sendHeadState i o).headsLaw := fun o ht =>
    headsLaw_of_only ht (sendHeadState_only _ i o) (by decide) (by decide)
  have hr : (s.updHead i Head.returned).headsLaw := updHead_headsLaw hs id
  unfold State.returnHead
  split
  · exact hsend _ hs
  · exact hsend _ (headsLaw_of_only hr (updLearned_only _ i _) (by simp) (by simp))

theorem takeReturn_headsLaw {s : State} (hs : s.headsLaw) (src : Address) (p : BitVec 16) :
    (s.takeReturn src p).headsLaw := by
  unfold State.takeReturn
  split
  · exact hs
  · split
    · exact eachOwned_headsLaw hs (fun i t => (returnHead_only t _ i).keeps .resetting (by simp [reporting]))
        fun i _ _ ht => returnHead_headsLaw ht _ i
    · split
      · exact returnHead_headsLaw hs _ _
      · exact hs

/-! ## Resets -/

/-- Where every head is cut the law holds, whatever the straps say. -/
theorem headsLaw_of_cut {s : State} (h : ∀ i, ∃ h₀ : Head, s.head i = h₀.cut) : s.headsLaw :=
  headsLaw_iff.2 fun i => by
    obtain ⟨h₀, hc⟩ := h i
    rw [hc]
    exact ⟨fun _ => rfl, fun _ => ⟨rfl, rfl, rfl, rfl⟩, fun hv => by cases hv⟩

theorem supplyLow_headsLaw (s : State) : s.supplyLow.headsLaw :=
  headsLaw_of_cut fun i => ⟨s.head i, beginReset_head s i⟩

theorem resetPin_headsLaw (s : State) : s.resetPin.headsLaw :=
  headsLaw_of_cut fun i => ⟨s.head i, beginReset_head s i⟩

/-- A head that has come out of a reset is as if it had been cut (R26, R108). -/
theorem afterPin_cut (h : Head) : h.afterPin = h.afterPin.cut :=
  rfl

theorem resetEnd_headsLaw {s : State} (hs : s.headsLaw) (straps : Straps) : (s.resetEnd straps).headsLaw := by
  unfold State.resetEnd
  split
  · exact hs
  · split
    · exact headsLaw_of_cut fun i => ⟨.atPowerOn, PerHead.get_all _ i⟩
    · exact headsLaw_of_cut fun i => ⟨(s.head i).afterPin, (PerHead.get_map s.heads Head.afterPin i).trans (afterPin_cut _)⟩

/-! ## Every step -/

theorem fire_headsLaw (e : TimedEvent) {s : State} (hs : s.headsLaw) : (e.fire s).headsLaw := by
  cases e with
  | pitchTimeout => exact pitchTimeout_headsLaw hs
  | coldStop => exact coldStop_headsLaw hs
  | valveClose i => exact valveCloseTime_headsLaw hs i
  | claimRetry i => exact claimRetry_headsLaw hs i
  | drawExpiry src g => exact headsLaw_of_only hs (drawEntryExpiry_only s src g) (by decide) (by decide)
  | holdExpiry => exact headsLaw_of_only hs (holdExpiry_only s) (by decide) (by decide)
  | holdRenewal => exact headsLaw_of_only hs (holdRenewal_only s) (by decide) (by decide)
  | stloSample => exact headsLaw_of_only hs (stloSample_only s) (by decide) (by decide)
  | silence => exact headsLaw_of_only hs (silenceThreshold_only s) (by decide) (by decide)
  | relistenEnd => exact headsLaw_of_only hs (relistenEnd_only s) (by decide) (by decide)
  | transactionEnd => exact transactionComplete_headsLaw hs _
  | driveGrant => exact headsLaw_of_only hs (driveGrant_only s) (by decide) (by decide)
  | resultWait i => exact headsLaw_of_only hs (resultWaitExpiry_only s i) (by simp) (by simp)
  | verdictExpiry => exact headsLaw_of_only hs (verdictExpiry_only s) (by decide) (by decide)
  | joinTimer => exact headsLaw_of_only hs (joinTimer_only s) (by decide) (by decide)
  | joinWindow => exact headsLaw_of_only hs (joinWindowPass_only s) (by decide) (by decide)

theorem ifJoined_headsLaw {s : State} {f : State → State} (hs : s.headsLaw) (hf : s.headsLaw → (f s).headsLaw) :
    (s.ifJoined f).headsLaw := by
  unfold State.ifJoined
  split
  · exact hf hs
  · exact hs

theorem completed_headsLaw {s : State} (hs : s.headsLaw) : s.completed.headsLaw :=
  headsLaw_of_only hs (completed_only s) (by decide) (by decide)

theorem heard_headsLaw {s : State} (hs : s.headsLaw) (src : Address) : (s.frameEnd.heardOther src).headsLaw :=
  headsLaw_of_only hs ((frameEnd_only s).comp (heardOther_only s.frameEnd src)) (by decide) (by decide)

/-- The reception of a frame whose owner keeps the law. -/
theorem receive_headsLaw {s : State} (src : Address) (owner : State → State) (hs : s.headsLaw)
    (ho : ∀ t, t.headsLaw → (owner t).headsLaw) : (s.receive src owner).headsLaw :=
  receive_keeps hs (fun h => heard_headsLaw h src) ho

/-- The reception of a frame whose owner changes no head. -/
theorem receive_headsLaw_of_only {ps : List Piece} {s : State} (src : Address) (owner : State → State) (hs : s.headsLaw)
    (ho : ∀ t, ChangesOnly ps t (owner t)) (hr : .resetting ∉ ps) (hh : ∀ i, .head i ∉ ps) :
    (s.receive src owner).headsLaw :=
  receive_headsLaw src owner hs fun t ht => headsLaw_of_only ht (ho t) hr hh

theorem commandEffect_headsLaw (c : Instr) {s : State} (hs : s.headsLaw) : (commandEffect c s).headsLaw := by
  have hheard := fun src (h : s.headsLaw) => heard_headsLaw h src
  cases c with
  | forwardCount dt jp cp => exact ifJoined_headsLaw hs fun h => forwardCount_headsLaw h jp cp
  | reverseCount dt => exact ifJoined_headsLaw hs reverseCount_headsLaw
  | illegalQuadratureStep dt => exact ifJoined_headsLaw hs illegalStep_headsLaw
  | zeroMark dt jp cp => exact ifJoined_headsLaw hs fun h => zeroMark_headsLaw h jp cp
  | pitchTimeout dt => exact pitchTimeout_headsLaw hs
  | coldStop dt => exact coldStop_headsLaw hs
  | valveCloseTime dt i => exact valveCloseTime_headsLaw hs i
  | jarRecord dt src p =>
    exact receive_headsLaw_of_only src (fun u => u.takeRecord src p) hs (takeRecord_only · src p) (by decide) (by decide)
  | drawClaim dt src p =>
    exact receiveOr_keeps hs (hheard src) completed_headsLaw (fun t ht => claimEcho_headsLaw ht p)
      fun t ht => headsLaw_of_only ht (peerClaim_only t src p) (by decide) (by decide)
  | drawEnd dt src p =>
    exact receiveOr_keeps (echo := fun t => t.drawEndEcho p.toNat) hs (hheard src) completed_headsLaw
      (fun t ht => headsLaw_of_only ht (drawEndEcho_only t p.toNat) (by decide) (by decide))
      fun t ht => headsLaw_of_only ht (peerDrawEnd_only t src p.toNat) (by decide) (by decide)
  | steamHold dt src p =>
    exact receiveOr_keeps hs (hheard src) completed_headsLaw
      (fun t ht => headsLaw_of_only ht (takeHold_only t .own p.toNat) (by decide) (by decide))
      fun t ht => headsLaw_of_only ht (takeHold_only t .peer p.toNat) (by decide) (by decide)
  | claimRetry dt i => exact claimRetry_headsLaw hs i
  | drawEntryExpiry dt src head => exact headsLaw_of_only hs (drawEntryExpiry_only s src head) (by decide) (by decide)
  | holdExpiry dt => exact headsLaw_of_only hs (holdExpiry_only s) (by decide) (by decide)
  | holdRenewal dt => exact headsLaw_of_only hs (holdRenewal_only s) (by decide) (by decide)
  | stloFall r => exact headsLaw_of_only hs (stloFall_only s r.held) (by decide) (by decide)
  | stloRise r => exact headsLaw_of_only hs (stloRise_only s r.held) (by decide) (by decide)
  | silenceThreshold dt => exact headsLaw_of_only hs (silenceThreshold_only s) (by decide) (by decide)
  | relistenEnd dt => exact headsLaw_of_only hs (relistenEnd_only s) (by decide) (by decide)
  | driveGrant dt => exact headsLaw_of_only hs (driveGrant_only s) (by decide) (by decide)
  | driveTransactionComplete dt reply => exact transactionComplete_headsLaw hs reply
  | resultWaitExpiry dt i => exact headsLaw_of_only hs (resultWaitExpiry_only s i) (by simp) (by simp)
  | verdict dt src p => exact receive_headsLaw src (fun u => u.takeVerdict src p) hs fun _ ht => takeVerdict_headsLaw ht src p
  | verdictExpiry dt => exact headsLaw_of_only hs (verdictExpiry_only s) (by decide) (by decide)
  | headReturn dt src p => exact receive_headsLaw src (fun u => u.takeReturn src p) hs fun _ ht => takeReturn_headsLaw ht src p
  | lineMode dt src p =>
    exact receive_headsLaw_of_only src (fun u => u.takeLineMode src p) hs (takeLineMode_only · src p) (by decide) (by decide)
  | lineClear dt src p =>
    exact receive_headsLaw_of_only src (fun u => u.takeLineClear src p) hs (takeLineClear_only · src p) (by decide)
      (by decide)
  | join dt src p =>
    exact receiveOr_keeps hs (hheard src) completed_headsLaw
      (fun t ht => headsLaw_of_only ht (joinEcho_only t) (by decide) (by decide))
      fun t ht => headsLaw_of_only ht (takeJoin_only t src p) (by decide) (by decide)
  | joinTimer dt => exact headsLaw_of_only hs (joinTimer_only s) (by decide) (by decide)
  | joinWindowPass dt => exact headsLaw_of_only hs (joinWindowPass_only s) (by decide) (by decide)
  | setup dt src p =>
    exact receive_headsLaw_of_only src (fun u => u.takeSetup src p) hs (takeSetup_only · src p) (by decide) (by decide)
  | profile dt src p =>
    exact receive_headsLaw_of_only src (fun u => u.takeProfile src p) hs (takeProfile_only · src p) (by decide) (by decide)
  | noticeClear dt src p =>
    exact receive_headsLaw_of_only src (fun u => u.takeNoticeClear src p) hs (takeNoticeClear_only · src p) (by decide)
      (by decide)
  | noticeMaskSet dt src p =>
    exact receive_headsLaw_of_only src (fun u => u.takeMaskSet src p) hs (takeMaskSet_only · src p) (by decide) (by decide)
  | noticeMaskClear dt src p =>
    exact receive_headsLaw_of_only src (fun u => u.takeMaskClear src p) hs (takeMaskClear_only · src p) (by decide)
      (by decide)
  | counterRequest dt src p =>
    exact receive_headsLaw_of_only src (fun u => u.takeRequest src p) hs (takeRequest_only · src p) (by decide) (by decide)
  | frameContentionStart dt => exact headsLaw_of_only hs (contentionStart_only s) (by decide) (by decide)
  | lostContention r => exact headsLaw_of_only hs (lostContention_only s r.bit r.level) (by decide) (by decide)
  | transmitError r => exact headsLaw_of_only hs (transmitError_only s r.bit r.level) (by decide) (by decide)
  | badFrameReceived dt r => exact headsLaw_of_only hs (badReceived_only s r) (by decide) (by decide)
  | unownedFrame dt src kind payload =>
    exact headsLaw_of_only hs (receiveUnowned_only s src kind.toNat payload) (by decide) (by decide)
  | busIdleSeen dt => exact headsLaw_of_only hs (busIdleSeen_only s) (by decide) (by decide)
  | supplyLow dt => exact supplyLow_headsLaw s
  | resetPin dt => exact resetPin_headsLaw s
  | resetEnd dt addr hcPins fh => exact resetEnd_headsLaw hs _
  | startBit dt => exact headsLaw_of_only hs (startBit_only s) (by decide) (by decide)
  | contentionWon dt => exact headsLaw_of_only hs (contentionWon_only s) (by decide) (by decide)
  | joinEcho dt => exact headsLaw_of_only hs (receiveJoinEcho_only s) (by decide) (by decide)

/-- Settles O56: the clock, every timed row and every command's effect keep the law. -/
theorem idleHeadsStayEmptyAndValvesInFlush : Obligations.IdleHeadsStayEmptyAndValvesInFlush :=
  keptByStep_of_effects (P := State.headsLaw) (fun _ _ h => h) (fun _ _ _ h => h) (fun e _ h => fire_headsLaw e h)
    fun c _ _ h => commandEffect_headsLaw c h

end Sys2Proof.Machine
end

section
/-!
The arrival of a jar record: its lead and the seqs held in the words of the statements, and what becomes of a record that
is not queued (O18) and of one that is (O19).
-/
namespace Sys2Proof.Machine

/-! ## The lead and the seqs held -/

theorem E_pos_of_valid {s : State} (h : s.setupStatus = .valid) : 0 < s.setup.E := by
  have := setup_E_of_valid h
  omega

/-- The counts to a target are its distance from the furthest position, taken round the turret (R31, R59). -/
theorem countsTo_eq_emod {E : Nat} (hE : 0 < E) (target furthest : Nat) :
    (countsTo E target furthest : Int) = ((target : Int) - (furthest : Int)) % (E : Int) := by
  have hle : furthest % E ≤ target % E + E := by
    have := Nat.mod_lt furthest hE
    omega
  unfold countsTo
  rw [Int.natCast_emod, Nat.cast_sub hle, Nat.cast_add, Int.natCast_emod, Int.natCast_emod, Int.sub_emod,
    Int.add_emod_right, Int.emod_emod, Int.emod_emod, ← Int.sub_emod]

theorem lead_eq_leadOf {s : State} (h : s.setupStatus = .valid) (c : Nat) : (s.lead c : Int) = s.leadOf c := by
  have hc := countsTo_eq_emod (E_pos_of_valid h) (c * s.pc) (s.ttu.x + s.ttu.lag)
  have hz : countsTo s.setup.E (c * s.pc) (s.ttu.x + s.ttu.lag) = 0
      ↔ ((c * s.pc : Nat) - ((s.ttu.x + s.ttu.lag : Nat) : Int)) % (s.setup.E : Int) = 0 := by
    rw [← hc]
    exact Int.natCast_eq_zero.symm
  unfold State.lead State.leadOf
  dsimp only
  by_cases h0 : countsTo s.setup.E (c * s.pc) (s.ttu.x + s.ttu.lag) = 0
  · rw [if_pos h0, if_pos (hz.1 h0)]
  · rw [if_neg h0, if_neg (mt hz.2 h0), hc]

/-- The lead window is that of R31 and R32 where the setup is valid. -/
theorem inWindow_iff {s : State} (h : s.setupStatus = .valid) (c : Nat) : s.inWindow c = true ↔ s.inTime c := by
  simp only [State.inWindow, State.inTime, Bool.and_eq_true, decide_eq_true_eq, ← lead_eq_leadOf h, and_assoc]
  norm_cast

theorem heldAtHead_iff (s : State) (q : Nat) (i : LocalHead) :
    s.heldAtHead q i = true ↔ (s.head i).phase ≠ .idle ∧ ∃ r ∈ (s.head i).bound, r.seq = q := by
  simp [State.heldAtHead, Option.any_eq_true]

/-- A seq is found held where one of R34's three places holds it. -/
theorem seqHeld_iff (s : State) (q : Nat) : s.seqHeld q = true ↔ s.holds q := by
  simp only [State.seqHeld, State.holds, Bool.or_eq_true, List.any_eq_true, beq_iff_eq, heldAtHead_iff, mem_owned,
    or_assoc]

theorem localOf_isNone_iff (s : State) (g : Nat) : (s.localOf g).isNone = true ↔ g < s.fh ∨ s.fh + s.hc ≤ g := by
  unfold State.localOf
  split <;> simp <;> omega

/-! ## The checks in their order -/

/-- A frame that has an owner is taken by it as the frame has been heard (R166, R167). -/
theorem exec_receive {c : Instr} {src : Address} {owner : State → State} {s t : State} (hc : actsInReset c = false)
    (he : commandEffect c = fun u => u.receive src owner) (ht : s.heard (elapsedBefore c) src = t)
    (hr : (s.elapse (elapsedBefore c)).reads = true) : exec c s = .next (owner t) := by
  rw [exec_eq_whenLive hc, whenLive_live (reads_live hr), he]
  exact congrArg Host.Outcome.next ((receive_reads hr src owner).trans (congrArg owner ht))

theorem exec_jarRecord {s t : State} {dt : Nat} {src : Address} (ht : s.heard dt src = t)
    (hr : (s.elapse dt).reads = true) (p : BitVec 64) :
    exec (.jarRecord dt src p) s = .next (t.takeRecord src p) :=
  exec_receive (c := .jarRecord dt src p) (owner := fun u => u.takeRecord src p) rfl rfl ht hr

theorem takeRecord_ignored {s : State} {src : Address} (h : s.joined = false ∨ s.roleOf src ≠ some .filler)
    (p : BitVec 64) : s.takeRecord src p = s :=
  if_pos (by simpa using h)

section
variable {s : State} {src : Address} {p : BitVec 64} (hj : s.joined = true) (hf : s.roleOf src = some .filler)
include hj hf

theorem takeRecord_bad (h : jarSeq p = 65535 ∨ s.setup.P ≤ jarPocket p) :
    s.takeRecord src p = s.count fun c => { c with badRecords := bump c.badRecords } := by
  rw [State.takeRecord, if_neg (by simp [hj, hf]), if_pos h]

variable (hq : jarSeq p ≠ 65535) (hp : jarPocket p < s.setup.P)
include hq hp

theorem takeRecord_notOwned
    (h : s.capperHead (jarPocket p) < s.fh ∨ s.fh + s.hc ≤ s.capperHead (jarPocket p)) : s.takeRecord src p = s := by
  rw [State.takeRecord, if_neg (by simp [hj, hf]), if_neg (not_or.2 ⟨hq, Nat.not_le.2 hp⟩),
    if_pos ((localOf_isNone_iff s _).2 h)]

theorem takeRecord_owned (h₁ : s.fh ≤ s.capperHead (jarPocket p)) (h₂ : s.capperHead (jarPocket p) < s.fh + s.hc) :
    s.takeRecord src p = s.queueRecord p := by
  have ho : ¬ (s.localOf (s.capperHead (jarPocket p))).isNone = true := by
    rw [localOf_isNone_iff]
    omega
  rw [State.takeRecord, if_neg (by simp [hj, hf]), if_neg (not_or.2 ⟨hq, Nat.not_le.2 hp⟩), if_neg ho]

end

section
variable {s : State} {p : BitVec 64} (hv : s.setupStatus = .valid)
include hv

theorem queueRecord_late (h : ¬ s.inTime (s.capperHead (jarPocket p))) :
    s.queueRecord p = s.count fun c => { c with lateRecords := bump c.lateRecords } := by
  rw [← inWindow_iff hv] at h
  rw [State.queueRecord, if_pos (by simpa using h)]

variable (ht : s.inTime (s.capperHead (jarPocket p)))
include ht

theorem queueRecord_duplicate (h : s.holds (jarSeq p)) :
    s.queueRecord p = s.count fun c => { c with duplicates := bump c.duplicates } := by
  rw [← inWindow_iff hv] at ht
  rw [State.queueRecord, if_neg (by simp [ht]), if_pos ((seqHeld_iff s _).2 h)]

theorem queueRecord_appends (h : ¬ s.holds (jarSeq p)) : s.queueRecord p = s.appendRecord (s.correctedRecord p) := by
  rw [← inWindow_iff hv] at ht
  rw [State.queueRecord, if_neg (by simp [ht]), if_neg (mt (seqHeld_iff s _).1 h)]

end

/-- Settles O18: one equation of `takeRecord` for each check that a record can fail. -/
theorem jarRecordThatIsNotQueued : Obligations.JarRecordThatIsNotQueued := by
  unfold Obligations.JarRecordThatIsNotQueued
  intro s t dt src p ht hr
  have he := exec_jarRecord ht hr p
  refine ⟨fun h => ?_, fun hj hf h => ?_, fun hj hf hq hp h => ?_, fun hj hv hf hq hp h₁ h₂ => ?_⟩
  · rw [he, takeRecord_ignored h]
  · rw [he, takeRecord_bad hj hf h]
    rfl
  · rw [he, takeRecord_notOwned hj hf hq hp h]
  · rw [he, takeRecord_owned hj hf hq hp h₁ h₂]
    refine ⟨fun hl => ?_, fun hi hd => ?_⟩
    · rw [queueRecord_late hv hl]
      rfl
    · rw [queueRecord_duplicate hv hi hd]
      rfl

/-! ## A record that is queued -/

/-- A record is corrected as R36 and R37 say: an unknown product to 0, mass and temperature clamped. -/
theorem correctedRecord_eq (s : State) (p : BitVec 64) : s.correctedRecord p =
    let known : Bool := decide (jarProduct p < 8) && decide (s.profileStatus (Fin.ofNat 8 (jarProduct p)) = .valid)
    { seq := jarSeq p, pocket := jarPocket p, head := s.capperHead (jarPocket p),
      product := if known then Fin.ofNat 8 (jarProduct p) else 0, mass := min (jarMass p) 20000,
      temp := min (jarTemp p) 1200,
      range := !known || decide (20000 < jarMass p) || decide (1200 < jarTemp p) } := by
  unfold State.correctedRecord State.validProduct
  dsimp only
  rw [← Bool.decide_and]
  by_cases h : jarProduct p < 8 ∧ s.profileStatus (Fin.ofNat 8 (jarProduct p)) = .valid
  · rw [if_pos h, decide_eq_true h]
    rfl
  · rw [if_neg h, decide_eq_false h]
    rfl

theorem appendRecord_room {s : State} (h : s.rq.length < 32) (r : JarRecord) :
    s.appendRecord r = { s with rq := s.rq ++ [r] } :=
  if_pos h

/-- The station with its oldest record dropped and the overrun counted and latched (R38). -/
def State.overrun (s : State) : State :=
  (({ s with rq := s.rq.drop 1 } : State).count fun c => { c with overruns := bump c.overruns }).latch .recordOverrun

theorem appendRecord_full {s : State} (h : 32 ≤ s.rq.length) (r : JarRecord) :
    s.appendRecord r = { s.overrun with rq := s.overrun.rq ++ [r] } :=
  if_neg (Nat.not_lt.2 h)

theorem overrun_rq (s : State) : s.overrun.rq = s.rq.drop 1 :=
  (latch_only _ _).keeps .records (by decide)

theorem overrun_counters (s : State) : s.overrun.counters = { s.counters with
    overruns := bump s.counters.overruns, txDrops := s.overrun.counters.txDrops } :=
  counters_of_only (latch_only _ _) (by decide)

/-- On the bus side an overrun brings what its latch brings (R38). -/
theorem overrun_sameBus (s : State) : SameBus (s.latch .recordOverrun) s.overrun :=
  SameBus.latch (s := s)
    (t := ({ s with rq := s.rq.drop 1 } : State).count fun c => { c with overruns := bump c.overruns })
    ⟨rfl, rfl, rfl, rfl⟩ .recordOverrun

/-- Settles O19: a record that passes the checks is appended, to a full queue behind an overrun. -/
theorem jarRecordThatIsQueued : Obligations.JarRecordThatIsQueued := by
  unfold Obligations.JarRecordThatIsQueued
  intro s t dt src p ht hr hj hv hf hq hp
  dsimp only
  intro h₁ h₂ hi hd
  rw [exec_jarRecord ht hr p, takeRecord_owned hj hf hq hp h₁ h₂, queueRecord_appends hv hi hd]
  have hc := correctedRecord_eq t p
  dsimp only at hc
  refine ⟨fun h => ?_, fun h => ⟨_, rfl, ?_⟩⟩
  · rw [appendRecord_room h, hc]
    rfl
  · have ho := appendRecord_only t (t.correctedRecord p)
    rw [appendRecord_full h, hc] at ho ⊢
    exact ⟨congrArg (· ++ _) (overrun_rq t), overrun_counters t, (overrun_sameBus t).busSideOf, latch_has _ _, ho⟩

end Sys2Proof.Machine
end

section
/-!
The ranges of the lists, the counters and the learned values: what keeps them in the shared operations, the head cycle,
the draw table and the angle events.
-/
namespace Sys2Proof.Machine

/-! ## The law -/

/-- Trim and dud count lie in their ranges (R134, R138). -/
def VerdictSlot.inRange (v : VerdictSlot) : Prop :=
  -Config.trimMax ≤ v.trim ∧ v.trim ≤ Config.trimMax ∧ v.duds ≤ Config.dudMax

/-- The pitch measurement lies in its range (R10). -/
def Ttu.inRange (t : Ttu) : Prop :=
  t.pitchCount ≤ 65535 ∧ t.tPitch ≤ Config.turretStopped

/-- The law of this file: what the statement bounds, field by field. -/
structure State.InRange (s : State) : Prop where
  records : s.rq.length ≤ Config.recordQueueSize
  table : s.sdu.table.length ≤ Config.drawTableSize
  awaiting : s.vu.awaiting.length ≤ Config.awaitingSize
  queue : s.lbi.queue.length ≤ Config.txQueueSize
  counters : s.counters.bounded
  headCounters : ∀ i, (s.headCounters.get i).bounded
  learned : ∀ i, (s.learned i).inRange
  failures : ∀ i, (s.head i).driveFailures ≤ Config.failureMax
  run : s.vu.noVerdictRun < Config.silentRun
  ttu : s.ttu.inRange

theorem inRange_iff {s : State} : s.InRange ↔ s.withinSizes ∧ s.countersBounded ∧ s.learnedInRange := by
  constructor
  · intro h
    exact ⟨⟨h.records, h.table, h.awaiting, h.queue⟩, ⟨h.counters, h.headCounters⟩,
      fun i => ⟨(h.learned i).1, (h.learned i).2.1, (h.learned i).2.2, h.failures i⟩, h.run, h.ttu⟩
  · rintro ⟨⟨hr, ht, ha, hq⟩, ⟨hc, hh⟩, hl, hn, hp⟩
    exact ⟨hr, ht, ha, hq, hc, hh, fun i => ⟨(hl i).1, (hl i).2.1, (hl i).2.2.1⟩, fun i => (hl i).2.2.2, hn, hp⟩

/-- From `s` to `t` the law is kept. -/
def KeepsRange (s t : State) : Prop :=
  s.InRange → t.InRange

theorem KeepsRange.refl (s : State) : KeepsRange s s :=
  id

theorem KeepsRange.trans {s t u : State} (h₁ : KeepsRange s t) (h₂ : KeepsRange t u) : KeepsRange s u :=
  h₂ ∘ h₁

theorem KeepsRange.ite {c : Prop} [Decidable c] {s t u : State} (h₁ : c → KeepsRange s t) (h₂ : ¬c → KeepsRange s u) :
    KeepsRange s (if c then t else u) := by
  split
  · exact h₁ ‹_›
  · exact h₂ ‹_›

theorem KeepsRange.eachOwned (s : State) {act : LocalHead → State → State} (h : ∀ i t, KeepsRange t (act i t)) :
    KeepsRange s (s.eachOwned act) :=
  fun hs => foldl_keeps (P := State.InRange) hs fun i _ t => h i t

/-- The pieces that the law speaks of. -/
def rangePieces : List Piece :=
  [.ttu, .records, .table, .awaiting, .silentRun, .queue, .badFrames, .txDrops, .recordCounts, .verdictCounts,
    .claimsRefused] ++ ofHeads .head ++ ofHeads .headCounts ++ ofHeads .learned

theorem mem_ofHeads (f : LocalHead → Piece) (i : LocalHead) : f i ∈ ofHeads f := by
  fin_cases i <;> simp [ofHeads]

theorem KeepsRange.of_only {ps : List Piece} {s t : State} (h : ChangesOnly ps s t) (hd : ∀ p ∈ rangePieces, p ∉ ps) :
    KeepsRange s t := by
  have hk : ∀ p ∈ rangePieces, p.same s t := fun p hp => h.keeps p (hd p hp)
  have hh : ∀ i, t.head i = s.head i := fun i => hk (.head i) (by simp [rangePieces, mem_ofHeads])
  have hl : ∀ i, t.learned i = s.learned i := fun i => hk (.learned i) (by simp [rangePieces, mem_ofHeads])
  have hn : ∀ i, t.headCounters.get i = s.headCounters.get i := fun i =>
    hk (.headCounts i) (by simp [rangePieces, mem_ofHeads])
  have hc : t.counters = s.counters := by
    rw [counters_of_only h fun p hp => hd p (by revert hp p; decide), hk .txDrops (by decide)]
  obtain ⟨hq, -⟩ := hk .queue (by decide)
  have hr := hk .records (by decide)
  have ht := hk .table (by decide)
  have ha := hk .awaiting (by decide)
  have hs := hk .silentRun (by decide)
  have hu := hk .ttu (by decide)
  simp only [Piece.same] at hr ht ha hs hu
  intro hR
  exact ⟨hr ▸ hR.records, ht ▸ hR.table, ha ▸ hR.awaiting, hq ▸ hR.queue, hc ▸ hR.counters,
    fun i => hn i ▸ hR.headCounters i, fun i => hl i ▸ hR.learned i, fun i => hh i ▸ hR.failures i, hs ▸ hR.run,
    hu ▸ hR.ttu⟩

/-! ## Updates -/

theorem setRecords_range {s : State} {l : List JarRecord}
    (hl : s.rq.length ≤ Config.recordQueueSize → l.length ≤ Config.recordQueueSize) :
    KeepsRange s { s with rq := l } :=
  fun h => { h with records := hl h.records }

theorem setTable_range {s : State} {l : List DrawEntry}
    (hl : s.sdu.table.length ≤ Config.drawTableSize → l.length ≤ Config.drawTableSize) :
    KeepsRange s { s with sdu := { s.sdu with table := l } } :=
  fun h => { h with table := hl h.table }

theorem setAwaiting_range {s : State} {l : List AwaitingEntry}
    (hl : s.vu.awaiting.length ≤ Config.awaitingSize → l.length ≤ Config.awaitingSize) :
    KeepsRange s { s with vu := { s.vu with awaiting := l } } :=
  fun h => { h with awaiting := hl h.awaiting }

theorem setRun_range (s : State) {n : Nat} (hn : n < Config.silentRun) :
    KeepsRange s { s with vu := { s.vu with noVerdictRun := n } } :=
  fun h => { h with run := hn }

theorem setLbi_range {s : State} {l : Lbi}
    (hl : s.lbi.queue.length ≤ Config.txQueueSize → l.queue.length ≤ Config.txQueueSize) :
    KeepsRange s { s with lbi := l } :=
  fun h => { h with queue := hl h.queue }

theorem setTtu_range {s : State} {t : Ttu} (ht : s.ttu.inRange → t.inRange) : KeepsRange s { s with ttu := t } :=
  fun h => { h with ttu := ht h.ttu }

theorem count_range {s : State} {f : Counters → Counters} (hf : s.counters.bounded → (f s.counters).bounded) :
    KeepsRange s (s.count f) :=
  fun h => { h with counters := hf h.counters }

theorem updHead_range {s : State} {i : LocalHead} {f : Head → Head}
    (hf : (s.head i).driveFailures ≤ Config.failureMax → (f (s.head i)).driveFailures ≤ Config.failureMax) :
    KeepsRange s (s.updHead i f) := by
  refine fun h => { h with failures := fun j => ?_ }
  by_cases hj : j = i
  · rw [hj, State.head_updHead_same]
    exact hf (h.failures i)
  · rw [State.head_updHead_other s hj]
    exact h.failures j

theorem updLearned_range {s : State} {i : LocalHead} {f : VerdictSlot → VerdictSlot}
    (hf : (s.learned i).inRange → (f (s.learned i)).inRange) : KeepsRange s (s.updLearned i f) := by
  refine fun h => { h with learned := fun j => ?_ }
  by_cases hj : j = i
  · rw [hj, State.learned_updLearned_same]
    exact hf (h.learned i)
  · rw [State.learned_updLearned_other s hj]
    exact h.learned j

theorem updCounters_range {s : State} {i : LocalHead} {f : HeadCounters → HeadCounters}
    (hf : (s.headCounters.get i).bounded → (f (s.headCounters.get i)).bounded) : KeepsRange s (s.updCounters i f) := by
  refine fun h => { h with headCounters := fun j => ?_ }
  rw [State.updCounters_headCounters, PerHead.get_upd]
  split
  · exact hf (h.headCounters i)
  · exact h.headCounters j

theorem updClaim_range (s : State) (i : LocalHead) (f : Claim → Claim) : KeepsRange s (s.updClaim i f) :=
  .of_only (updClaim_only s i f) (by simp [rangePieces, ofHeads])

theorem updSlot_range (s : State) (i : LocalHead) (f : DriveSlot → DriveSlot) : KeepsRange s (s.updSlot i f) :=
  .of_only (updSlot_only s i f) (by simp [rangePieces, ofHeads])

theorem flag_range (s : State) (i : LocalHead) (f : JarFlag) : KeepsRange s (s.flag i f) :=
  updHead_range id

theorem markJog_range (s : State) (i : LocalHead) : KeepsRange s (s.markJog i) :=
  .ite (fun _ => flag_range s i _) (fun _ => .refl s)

theorem setPhase_range (s : State) (i : LocalHead) (p : Phase) : KeepsRange s (s.setPhase i p) :=
  updHead_range id

theorem endClaims_range (s : State) (i : LocalHead) : KeepsRange s (s.endClaims i) :=
  updHead_range id

/-! ## The transmit queue and notices -/

theorem nextAge_range (s : State) : KeepsRange s s.nextAge :=
  setLbi_range id

theorem setLatched_range (s : State) (n : Notice) : KeepsRange s (s.setLatched n) :=
  .of_only (setLatched_only s n) (by decide)

/-- An arriving frame finds room or costs a frame, and a loss is counted up to the counter's end (R163). -/
theorem arrive_range (s : State) (e : TxEntry) : KeepsRange s (s.arrive e) := fun h =>
  { h with
    queue := placeTx_length e h.queue
    counters := by
      have hc := h.counters
      have hd := bumpIf_le (c := (s.lostAt e).isSome) hc.2.1
      exact ⟨hc.1, hd, hc.2.2⟩ }

theorem latchTxDrop_range (s : State) : KeepsRange s s.latchTxDrop :=
  .ite (fun _ => .refl s) fun _ => .ite (fun _ => setLatched_range s _) fun _ =>
    (setLatched_range s _).trans ((nextAge_range _).trans (arrive_range _ _))

theorem enter_range (s : State) (e : TxEntry) : KeepsRange s (s.enter e) := by
  unfold State.enter
  split
  · exact arrive_range s e
  · exact ((arrive_range s e).trans (latchTxDrop_range _)).trans
      (.of_only ((takeLoss_only _ _).mono (lossPieces_sub _ _)) (by decide))

theorem handIn_range (s : State) (f : TxFrame) : KeepsRange s (s.handIn f) :=
  (nextAge_range s).trans (enter_range _ _)

theorem requestNotice_range (s : State) : KeepsRange s s.requestNotice :=
  .ite (fun _ => .refl s) fun _ => handIn_range s _

theorem latch_range (s : State) (n : Notice) : KeepsRange s (s.latch n) :=
  .ite (fun _ => .refl s) fun _ => .ite (fun _ => setLatched_range s n) fun _ =>
    (setLatched_range s n).trans (requestNotice_range _)

theorem relatch_range (w : Word) (s : State) (n : Notice) : KeepsRange s (State.relatch w s n) :=
  .ite (fun _ => latch_range s n) fun _ => .refl s

theorem clearNotices_range (s : State) (w : Word) : KeepsRange s (s.clearNotices w) := by
  have hw : KeepsRange s { s with sc := { s.sc with latched := s.sc.latched &&& ~~~w } } := fun h => { h with }
  unfold State.clearNotices
  simp only [List.foldl_cons, List.foldl_nil]
  exact hw.trans ((relatch_range _ _ _).trans ((relatch_range _ _ _).trans ((relatch_range _ _ _).trans
    (relatch_range _ _ _))))

theorem changeMask_range (s : State) (m : Word) : KeepsRange s (s.changeMask m) := by
  have hm : KeepsRange s { s with sc := { s.sc with mask := m } } := fun h => { h with }
  exact .ite (fun _ => hm) fun _ => hm.trans (requestNotice_range _)

/-! ## The bench and the end of a cycle -/

theorem removeClaimFrame_range (s : State) (i : LocalHead) : KeepsRange s (s.removeClaimFrame i) :=
  setLbi_range (List.length_filter_le _ _).trans

theorem withdrawClaim_range (s : State) (i : LocalHead) : KeepsRange s (s.withdrawClaim i) := by
  unfold State.withdrawClaim
  split
  · exact .refl s
  · exact .refl s
  · exact (removeClaimFrame_range s i).trans ((updClaim_range _ i _).trans (endClaims_range _ i))
  · exact (updClaim_range s i _).trans (endClaims_range _ i)

theorem sendHeadState_range (s : State) (i : LocalHead) (o : Occasion) : KeepsRange s (s.sendHeadState i o) :=
  handIn_range s _

theorem benchHead_range (s : State) (i : LocalHead) (r : BenchReason) : KeepsRange s (s.benchHead i r) :=
  .ite (fun _ => .refl s) fun _ => (updHead_range id).trans ((withdrawClaim_range _ i).trans ((latch_range _ _).trans
    (sendHeadState_range _ i _)))

theorem driveFailed_range (s : State) (i : LocalHead) : KeepsRange s (s.driveFailed i) := by
  have hf : KeepsRange s
      (s.updHead i fun h => { h with driveFailures := min Config.failureMax (h.driveFailures + 1) }) :=
    updHead_range fun _ => Nat.min_le_left _ _
  exact .ite (fun _ => hf.trans ((latch_range _ _).trans (benchHead_range _ i _))) fun _ => hf

theorem driveSucceeded_range (s : State) (i : LocalHead) : KeepsRange s (s.driveSucceeded i) :=
  updHead_range fun _ => Nat.zero_le _

theorem HeadCounters.tally_bounded {c : HeadCounters} (h : c.bounded) (seated : Bool) (r : JarReport) :
    (c.tally seated r).bounded := by
  obtain ⟨h₁, h₂, h₃, h₄, h₅, h₆, h₇, h₈, h₉, h₁₀⟩ := h
  exact ⟨bumpIf_le h₁, bumpIf_le h₂, bumpIf_le h₃, bumpIf_le h₄, h₅, h₆, h₇, bumpIf_le h₈, bumpIf_le h₉, bumpIf_le h₁₀⟩

theorem reportJar_range (s : State) (i : LocalHead) (b : Bool) (r : JarReport) : KeepsRange s (s.reportJar i b r) :=
  (updCounters_range fun h => HeadCounters.tally_bounded h b r).trans (handIn_range _ _)

/-- An entry handed off finds room or costs the oldest (R126, R127). -/
theorem handOff_range (s : State) (e : AwaitingEntry) : KeepsRange s (s.handOff e) := by
  refine .ite (fun hr => setAwaiting_range fun _ => ?_) fun _ =>
    (setAwaiting_range (l := s.vu.awaiting.drop 1 ++ [e]) fun h => ?_).trans ((count_range fun h => ?_).trans
      (latch_range _ _))
  · simpa using hr
  · simp only [List.length_append, List.length_drop, List.length_singleton, Config.awaitingSize] at h ⊢
    omega
  · simp_all [Counters.bounded, bump_le]

theorem handOffJar_range (s : State) (i : LocalHead) (o : JarOutcome) : KeepsRange s (s.handOffJar i o) :=
  .ite (fun _ => handOff_range s _) fun _ => .refl s

theorem detachCycle_range (s : State) (i : LocalHead) : KeepsRange s (s.detachCycle i) :=
  .of_only (detachCycle_only s i) (by decide)

theorem finish_range (s : State) (i : LocalHead) (o : JarOutcome) (torque angle : Nat) :
    KeepsRange s (s.finish i o torque angle) :=
  (reportJar_range s i _ _).trans ((handOffJar_range _ i o).trans ((updHead_range id).trans (detachCycle_range _ i)))

/-! ## The draw table, valves and claims -/

/-- An entry is written where the table has room for it or holds one of its station and head (R66, R67). -/
theorem writeEntry_range {s : State} {src : Address} {g : Nat} (h : s.tableOpen src g = true) (f dwell : Nat) :
    KeepsRange s (s.writeEntry src g f dwell) := by
  refine setTable_range fun hl => ?_
  simp only [State.tableOpen, Bool.and_eq_true, Bool.or_eq_true, decide_eq_true_eq] at h
  rw [List.length_append, List.length_singleton]
  rcases h.2 with ha | hr
  · have : (s.sdu.table.filter fun e => !e.isOf src g).length < s.sdu.table.length := by
      obtain ⟨e, he, ho⟩ := List.any_eq_true.1 ha
      exact List.length_filter_lt_length_iff_exists.2 ⟨e, he, by simp [ho]⟩
    omega
  · have := List.length_filter_le (fun e => !e.isOf src g) s.sdu.table
    omega

theorem admitsEcho_open {s : State} {g f : Nat} (h : s.admitsEcho g f = true) : s.tableOpen s.addr g = true := by
  unfold State.admitsEcho State.admitsLine State.admitsIsolated at h
  split at h
  · simp_all
  · split at h <;> simp_all

theorem claimRefused_range (s : State) (i : LocalHead) : KeepsRange s (s.claimRefused i) :=
  .of_only (claimRefused_only s i) (by simp [rangePieces, ofHeads])

theorem count_claimsRefused_range (s : State) :
    KeepsRange s (s.count fun k => { k with claimsRefused := bump k.claimsRefused }) :=
  count_range fun h => by simp_all [Counters.bounded, bump_le]

theorem closeValve_range (s : State) (i : LocalHead) : KeepsRange s (s.closeValve i) :=
  (updHead_range id).trans (handIn_range _ _)

theorem reportAdmission_range (s : State) (i : LocalHead) (dwell : Nat) (x : Bool) :
    KeepsRange s (s.reportAdmission i dwell x) :=
  .ite (fun _ => (updHead_range id).trans (markJog_range _ i)) fun _ => handIn_range s _

theorem announce_range (s : State) (i : LocalHead) (c : Claim) : KeepsRange s (s.announce i c) := by
  refine .ite (fun _ => .ite (fun ha => ?_) fun _ => ?_) fun _ => ?_
  · have ht : s.tableOpen s.addr (s.globalHead i) = true := by
      simp only [State.admitsIsolated, Bool.and_eq_true] at ha
      exact ha.1
    exact (writeEntry_range ht _ _).trans ((updClaim_range _ i _).trans ((reportAdmission_range _ i _ _).trans
      (handIn_range _ _)))
  · exact (updClaim_range s i _).trans ((count_claimsRefused_range _).trans (claimRefused_range _ i))
  · exact (updClaim_range s i _).trans (handIn_range _ _)

theorem formClaim_range (s : State) (i : LocalHead) : KeepsRange s (s.formClaim i) := by
  unfold State.formClaim
  dsimp only
  split
  · exact (updClaim_range s i _).trans (endClaims_range _ i)
  · split
    · exact (flag_range s i _).trans (announce_range _ i _)
    · exact announce_range s i _

theorem recheckClaims_range (s : State) : KeepsRange s s.recheckClaims :=
  .eachOwned s fun i t => .ite (fun _ => withdrawClaim_range t i) fun _ => .refl t

/-! ## Abort -/

theorem withdraw_range (s : State) (i : LocalHead) (k : DriveKind) : KeepsRange s (s.withdraw i k) :=
  .of_only (withdraw_only s i k) (by simp [rangePieces, ofHeads])

theorem request_range (s : State) (i : LocalHead) (r : DriveRequest) : KeepsRange s (s.request i r) :=
  updSlot_range s i _

theorem abortSteam_range (s : State) (i : LocalHead) : KeepsRange s (s.abortSteam i) :=
  .ite (fun _ => (withdrawClaim_range s i).trans (closeValve_range _ i)) fun _ => withdrawClaim_range s i

theorem abortDrive_range (s : State) (i : LocalHead) (p : Phase) : KeepsRange s (s.abortDrive i p) :=
  .of_only (abortDrive_only s i p) (by simp [rangePieces, ofHeads])

theorem abortHead_range (i : LocalHead) (s : State) : KeepsRange s (State.abortHead i s) := by
  by_cases h : (s.head i).phase = .idle
  · rw [abortHead_idle h]
    exact .refl s
  · rw [abortHead_open h]
    exact ((flag_range s i _).trans (markJog_range _ i)).trans ((abortSteam_range _ i).trans
      ((abortDrive_range _ i _).trans (finish_range _ i _ _ _)))

theorem abortAll_range (s : State) : KeepsRange s s.abortAll :=
  .eachOwned s abortHead_range

/-! ## Angle events -/

theorem closeOut_range (s : State) (i : LocalHead) : KeepsRange s (s.closeOut i) :=
  (withdraw_range s i _).trans ((flag_range _ i _).trans ((markJog_range _ i).trans ((finish_range _ i _ _ _).trans
    (driveFailed_range _ i))))

theorem takeRecords_range (s : State) (g : Nat) : KeepsRange s (s.takeRecords g) :=
  setRecords_range (List.length_filter_le _ _).trans

theorem count_surplus_range (s : State) (n : Nat) :
    KeepsRange s (s.count fun c => { c with surplus := bumpBy n c.surplus }) :=
  count_range fun h => by simp_all [Counters.bounded, bumpBy_le]

theorem underrun_range (s : State) : KeepsRange s s.underrun :=
  (count_range fun h => by simp_all [Counters.bounded, bump_le]).trans (latch_range _ _)

theorem beginCycle_range (s : State) (i : LocalHead) (r : Option JarRecord) : KeepsRange s (s.beginCycle i r) := by
  have hr : KeepsRange s (s.recordChecked r) := .ite (fun _ => underrun_range s) fun _ => .refl s
  exact hr.trans ((updHead_range id).trans (request_range _ i _))

theorem idlePass_range (s : State) (i : LocalHead) (jar : Bool) : KeepsRange s (s.idlePass i jar) := by
  have ht := takeRecords_range s (s.globalHead i)
  refine .ite (fun _ => ht.trans (count_range fun h => ?_)) fun _ => .ite (fun _ => ?_) fun _ =>
    .ite (fun _ => ?_) fun _ => ?_
  · simp_all [Counters.bounded, bumpBy_le]
  · exact ht.trans ((count_surplus_range _ _).trans (reportJar_range _ i _ _))
  · exact ht.trans ((count_surplus_range _ _).trans (beginCycle_range _ i _))
  · exact ht.trans ((count_surplus_range _ _).trans (reportJar_range _ i _ _))

theorem infeedPass_range (s : State) (i : LocalHead) (jar : Bool) : KeepsRange s (s.infeedPass i jar) := by
  unfold State.infeedPass
  split
  · exact idlePass_range s i jar
  · exact (closeOut_range s i).trans (idlePass_range _ i jar)
  all_goals exact .refl s

theorem capPick_range (s : State) (i : LocalHead) (cap : Bool) : KeepsRange s (s.capPick i cap) :=
  .ite
    (fun _ => .ite (fun _ => (markJog_range s i).trans (setPhase_range _ i _)) fun _ =>
      (markJog_range s i).trans ((flag_range _ i _).trans ((withdraw_range _ i _).trans (finish_range _ i _ _ _))))
    fun _ => .refl s

theorem flushStart_range (s : State) (i : LocalHead) : KeepsRange s (s.flushStart i) := by
  have h := (markJog_range s i).trans (setPhase_range _ i .claiming)
  exact .ite (fun _ => .ite (fun _ => h.trans (endClaims_range _ i)) fun _ =>
    .ite (fun _ => h.trans (formClaim_range _ i)) fun _ => h) fun _ => .refl s

theorem seat_range (s : State) (i : LocalHead) : KeepsRange s (s.seat i) := by
  have h := (markJog_range s i).trans (withdrawClaim_range _ i)
  unfold State.seat
  split
  · dsimp only
    split
    · exact h.trans ((flag_range _ i _).trans ((closeValve_range _ i).trans (setPhase_range _ i _)))
    · exact h.trans (setPhase_range _ i _)
  · exact h.trans ((flag_range _ i _).trans (updHead_range id))
  all_goals exact .refl s

theorem torqueStart_range (s : State) (i : LocalHead) : KeepsRange s (s.torqueStart i) := by
  have hl : ∀ t : State, KeepsRange t (t.driveLate i) := fun t => (updSlot_range t i _).trans (flag_range _ i _)
  unfold State.torqueStart
  split
  · dsimp only
    split
    · exact (markJog_range s i).trans ((request_range _ i _).trans (setPhase_range _ i _))
    · exact (markJog_range s i).trans ((hl _).trans ((request_range _ i _).trans (setPhase_range _ i _)))
  · exact .refl s

theorem release_range (s : State) (i : LocalHead) : KeepsRange s (s.release i) := by
  unfold State.release
  split
  · dsimp only
    split
    · exact (markJog_range s i).trans ((flag_range _ i _).trans ((request_range _ i _).trans (setPhase_range _ i _)))
    · exact (markJog_range s i).trans ((request_range _ i _).trans (setPhase_range _ i _))
  · exact .refl s

theorem takeAngle_range (s : State) (i : LocalHead) (jp cp : BitVec 4) (e : AngleEvent) :
    KeepsRange s (s.takeAngle i jp cp e) := by
  cases e with
  | infeed => exact infeedPass_range s i _
  | capPick => exact capPick_range s i _
  | flushStart => exact flushStart_range s i
  | seat => exact seat_range s i
  | torqueStart => exact torqueStart_range s i
  | release => exact release_range s i

theorem raiseEvent_range (jp cp : BitVec 4) (i : LocalHead) (s : State) :
    KeepsRange s (State.raiseEvent jp cp i s) := by
  unfold State.raiseEvent
  split
  · exact takeAngle_range s i jp cp _
  · exact .refl s

end Sys2Proof.Machine
end

section
/-!
The ranges of the lists, the counters and the learned values through the counts, the blocks' own steps and the resets, and
the statement (O54).
-/
namespace Sys2Proof.Machine

/-! ## Counts -/

/-- A boundary's pitch time is cut off where the turret reads as stopped, and its pitch count holds (R9, R10). -/
theorem boundary_inRange {t : Ttu} (h : t.inRange) (now : Nat) (due : Bool) : (t.boundary now due).inRange := by
  refine ⟨Nat.min_le_left _ _, ?_⟩
  show (if t.pitchCount = 0 then t.tPitch else min Config.turretStopped (now - t.pitchStart)) ≤ Config.turretStopped
  split
  · exact h.2
  · exact Nat.min_le_left _ _

theorem crossing_range (s : State) (jp cp : BitVec 4) : KeepsRange s (s.crossing jp cp) := by
  have h : ∀ t : State, KeepsRange t ((t.eachOwned (State.raiseEvent jp cp)).recheckClaims) := fun t =>
    (KeepsRange.eachOwned t (raiseEvent_range jp cp)).trans (recheckClaims_range _)
  unfold State.crossing
  dsimp only
  split
  · exact (setTtu_range fun ht => boundary_inRange ht _ _).trans (h _)
  · exact h s

theorem forwardMove_range (s : State) (jp cp : BitVec 4) : KeepsRange s (s.forwardMove jp cp) := by
  have h : KeepsRange s
      { s with ttu := { s.ttu with x := (s.ttu.x + 1) % s.setup.E, lag := s.ttu.lag - 1 } } := setTtu_range id
  exact .ite (fun _ => h.trans (crossing_range _ jp cp)) fun _ => h

theorem setDir_range (s : State) (d : Direction) : KeepsRange s (s.setDir d) :=
  setTtu_range id

theorem forwardCount_range (s : State) (jp cp : BitVec 4) : KeepsRange s (s.forwardCount jp cp) :=
  .ite (fun _ => (setDir_range s _).trans (forwardMove_range _ jp cp)) fun _ => setDir_range s _

theorem beginReverse_range (s : State) (d : Direction) : KeepsRange s (s.beginReverse d) :=
  .ite (fun _ => latch_range s _) fun _ => .refl s

theorem movedBack_range (s : State) : KeepsRange s s.movedBack :=
  setTtu_range fun ht => ⟨Nat.zero_le _, ht.2⟩

theorem reverseCount_range (s : State) : KeepsRange s s.reverseCount := by
  cases hr : s.ttu.referenced with
  | true =>
    have h := (movedBack_range s).trans (abortAll_range _)
    rw [reverseCount_referenced hr]
    exact .ite (fun _ => h.trans (latch_range _ _)) fun _ => h
  | false =>
    rw [reverseCount_unreferenced hr]
    exact (setDir_range s _).trans (beginReverse_range _ _)

theorem illegalStep_range (s : State) : KeepsRange s s.illegalStep := by
  unfold State.illegalStep
  dsimp only
  split
  · exact (latch_range s _).trans ((abortAll_range _).trans (setTtu_range fun ht => ⟨Nat.zero_le _, ht.2⟩))
  · exact latch_range s _

theorem correctForward_range (jp cp : BitVec 4) (n : Nat) (s : State) :
    KeepsRange s (State.correctForward jp cp n s) := by
  induction n generalizing s with
  | zero => exact .refl s
  | succ n ih => exact (forwardMove_range s jp cp).trans (ih _)

theorem zeroMark_range (s : State) (jp cp : BitVec 4) : KeepsRange s (s.zeroMark jp cp) := by
  have hz : ∀ t : State, KeepsRange t { t with ttu := t.ttu.zeroed } := fun t =>
    setTtu_range fun ht => ⟨Nat.zero_le _, ht.2⟩
  refine .ite (fun _ => hz s) fun _ => .ite (fun _ => ?_) fun _ => .ite (fun _ => .refl s) fun _ =>
    .ite (fun _ => setTtu_range id) fun _ => correctForward_range jp cp _ s
  exact (latch_range s _).trans ((abortAll_range _).trans (hz _))

theorem pitchTimeout_range (s : State) : KeepsRange s s.pitchTimeout := by
  have h : KeepsRange s { s with ttu := { s.ttu with tPitch := Config.turretStopped } } :=
    setTtu_range fun ht => ⟨ht.1, Nat.le_refl _⟩
  exact .ite (fun _ => h.trans (recheckClaims_range _)) fun _ => .refl s

theorem coldStop_range (s : State) : KeepsRange s s.coldStop := by
  have h : KeepsRange s { s with ttu := { s.ttu with coldFired := true, coldWaits := false } } := setTtu_range id
  exact .ite (fun _ => h.trans (.eachOwned _ fun _ _ => updHead_range id)) fun _ => .refl s

/-! ## Records -/

/-- A record finds room or costs the oldest (R27, R38). -/
theorem appendRecord_range (s : State) (r : JarRecord) : KeepsRange s (s.appendRecord r) := by
  rcases Nat.lt_or_ge s.rq.length 32 with h | h
  · rw [appendRecord_room h]
    exact setRecords_range fun _ => by simpa using h
  · have ho : KeepsRange s s.overrun :=
      (setRecords_range fun hl => (List.length_drop ▸ Nat.sub_le _ _).trans hl).trans
        ((count_range fun hc => by simp_all [Counters.bounded, bump_le]).trans (latch_range _ _))
    intro hs
    rw [appendRecord_full h]
    refine setRecords_range (fun _ => ?_) (ho hs)
    have := hs.records
    simp only [overrun_rq, List.length_append, List.length_drop, List.length_singleton, Config.recordQueueSize] at this ⊢
    omega

theorem takeRecord_range (s : State) (src : Address) (p : BitVec 64) : KeepsRange s (s.takeRecord src p) := by
  refine .ite (fun _ => .refl s) fun _ => .ite (fun _ => count_range fun h => ?_) fun _ => .ite (fun _ => .refl s)
    fun _ => .ite (fun _ => count_range fun h => ?_) fun _ => .ite (fun _ => count_range fun h => ?_) fun _ =>
    appendRecord_range s _
  all_goals simp_all [Counters.bounded, bump_le]

/-! ## Steam -/

theorem sendHold_range (s : State) : KeepsRange s s.sendHold :=
  handIn_range s _

theorem claimEcho_range (s : State) (p : BitVec 32) : KeepsRange s (s.claimEcho p) := by
  unfold State.claimEcho
  refine .ite (fun _ => .refl s) fun _ => ?_
  split
  · next i _ =>
    exact .ite (fun _ => updClaim_range s i _) fun _ =>
      .ite (fun ha => (writeEntry_range (admitsEcho_open ha) _ _).trans ((updClaim_range _ i _).trans
          (reportAdmission_range _ i _ _)))
        fun _ => (count_claimsRefused_range s).trans (claimRefused_range _ i)
  · exact .refl s

theorem peerClaim_range (s : State) (src : Address) (p : BitVec 32) : KeepsRange s (s.peerClaim src p) := by
  refine .ite (fun ha => writeEntry_range ?_ _ _) fun _ => .refl s
  simp only [State.admitsLine, Bool.and_eq_true] at ha
  exact ha.2.1

theorem removeEntry_range (s : State) (src : Address) (g : Nat) : KeepsRange s (s.removeEntry src g) :=
  setTable_range (List.length_filter_le _ _).trans

theorem drawEndEcho_range (s : State) (g : Nat) : KeepsRange s (s.drawEndEcho g) :=
  .ite (fun _ => removeEntry_range s _ _) fun _ => .refl s

theorem peerDrawEnd_range (s : State) (src : Address) (g : Nat) : KeepsRange s (s.peerDrawEnd src g) :=
  .ite (fun _ => removeEntry_range s _ _) fun _ => .refl s

theorem takeHold_range (s : State) (o : HoldOrigin) (q : Nat) : KeepsRange s (s.takeHold o q) :=
  .of_only (takeHold_only s o q) (by decide)

theorem valveCloseTime_range (s : State) (i : LocalHead) : KeepsRange s (s.valveCloseTime i) :=
  .ite (fun _ => (markJog_range s i).trans (closeValve_range _ i)) fun _ => .refl s

theorem claimRetry_range (s : State) (i : LocalHead) : KeepsRange s (s.claimRetry i) := by
  unfold State.claimRetry
  split
  · exact .ite (fun _ => .ite (fun _ => (updClaim_range s i _).trans (formClaim_range _ i)) fun _ =>
      updClaim_range s i _) fun _ => .refl s
  all_goals exact .refl s

theorem drawEntryExpiry_range (s : State) (src : Address) (g : Nat) : KeepsRange s (s.drawEntryExpiry src g) :=
  setTable_range (List.length_filter_le _ _).trans

theorem holdExpiry_range (s : State) : KeepsRange s s.holdExpiry := by
  have h : KeepsRange s { s with sdu := { s.sdu with hold := none } } := .of_only (stopHold_only s none) (by decide)
  exact .ite (fun _ => .ite (fun _ => h.trans (sendHold_range _)) fun _ => h) fun _ => .refl s

theorem holdRenewal_range (s : State) : KeepsRange s s.holdRenewal := by
  have h : KeepsRange s { s with sdu := { s.sdu with renewal := none } } :=
    .of_only (setRenewal_only s none) (by decide)
  exact .ite (fun _ => .ite (fun _ => h.trans (sendHold_range _)) fun _ => h) fun _ => .refl s

theorem stloSample_range (s : State) : KeepsRange s s.stloSample := by
  have hl : ∀ l, KeepsRange s { s with sdu := { s.sdu with stlo := l } } := fun l =>
    .of_only (setStlo_only s l) (by decide)
  unfold State.stloSample
  split
  · exact .ite (fun _ => (hl _).trans ((latch_range _ _).trans (sendHold_range _))) fun _ =>
      (hl _).trans (latch_range _ _)
  · exact hl _
  all_goals exact .refl s

theorem stloFilter_range (s : State) (l : StloLevel) (held : Nat) : KeepsRange s (s.stloFilter l held) :=
  .of_only (stloFilter_only s l held) (by decide)

theorem silenceThreshold_range (s : State) : KeepsRange s s.silenceThreshold :=
  .ite (fun _ => (KeepsRange.of_only (setIsolated_only s true) (by decide)).trans (latch_range _ _)) fun _ => .refl s

/-! ## The drive link -/

theorem countCompletion_range (s : State) (i : LocalHead) (c : ReplyClass) : KeepsRange s (s.countCompletion i c) := by
  cases c with
  | success => exact driveSucceeded_range s i
  | failure => exact driveFailed_range s i
  | busy => exact .refl s

theorem applyCompletion_range (s : State) (i : LocalHead) (k : DriveKind) (c : ReplyClass) (torque angle : Nat) :
    KeepsRange s (s.applyCompletion i k c torque angle) := by
  have h := markJog_range s i
  unfold State.applyCompletion
  dsimp only
  split
  · exact h.trans (updHead_range id)
  · exact h.trans (flag_range _ i _)
  · exact h.trans ((updHead_range id).trans (finish_range _ i _ _ _))
  · exact h.trans ((flag_range _ i _).trans (finish_range _ i _ _ _))
  · exact h.trans (updSlot_range _ i _)
  · exact h
  · exact h
  · exact h
  · exact h
  · exact .refl s

theorem transactionComplete_range (s : State) (reply : BitVec 48) : KeepsRange s (s.transactionComplete reply) := by
  unfold State.transactionComplete
  split
  · next t _ =>
    have h := (KeepsRange.of_only (setCurrent_only s none) (by decide)).trans
      (countCompletion_range _ t.head (judgeReply t.request.kind reply))
    exact .ite (fun _ => .ite (fun _ => h.trans (applyCompletion_range _ _ _ _ _ _)) fun _ => h) fun _ => .refl s
  · exact .refl s

/-! ## Verdicts and returns -/

theorem HeadCounters.countFinding_bounded {c : HeadCounters} (h : c.bounded) (f : Finding) :
    (c.countFinding f).bounded := by
  obtain ⟨h₁, h₂, h₃, h₄, h₅, h₆, h₇, h₈, h₉, h₁₀⟩ := h
  cases f with
  | good => exact ⟨h₁, h₂, h₃, h₄, bump_le _, h₆, h₇, h₈, h₉, h₁₀⟩
  | dud => exact ⟨h₁, h₂, h₃, h₄, h₅, bump_le _, h₇, h₈, h₉, h₁₀⟩
  | unreadable => exact ⟨h₁, h₂, h₃, h₄, h₅, h₆, h₇, h₈, h₉, h₁₀⟩

/-- A verdict that teaches leaves the trim clamped and the dud count held (R136, R138). -/
theorem VerdictSlot.teach_inRange {v : VerdictSlot} (h : v.inRange) (p : Profile) (f : Finding) (depth : Nat) :
    (v.teach p f depth).inRange := by
  obtain ⟨hl, hu, hd⟩ := h
  have ht := trimAfter_between v.trim p.target depth p.G p.stepMax
  cases f with
  | good => exact ⟨ht.1, ht.2, Nat.zero_le _⟩
  | dud => exact ⟨ht.1, ht.2, Nat.min_le_left _ _⟩
  | unreadable => exact ⟨hl, hu, hd⟩

theorem matchEntry_range (s : State) (i : LocalHead) (e : AwaitingEntry) (f : Finding) :
    KeepsRange s (s.matchEntry i e f) :=
  (setAwaiting_range (List.length_filter_le _ _).trans).trans ((setRun_range _ (n := 0) (by decide)).trans
    ((updLearned_range id).trans (updCounters_range fun h => HeadCounters.countFinding_bounded h f)))

theorem matchVerdict_range (s : State) (i : LocalHead) (e : AwaitingEntry) (f : Finding) (depth : Nat) :
    KeepsRange s (s.matchVerdict i e f depth) := by
  have hm := matchEntry_range s i e f
  have hl : KeepsRange (s.matchEntry i e f) ((s.matchEntry i e f).updLearned i fun v =>
      v.teach ((s.matchEntry i e f).profile e.profile) f depth) :=
    updLearned_range fun h => VerdictSlot.teach_inRange h _ f depth
  exact .ite (fun _ => .ite (fun _ => hm.trans (hl.trans (benchHead_range _ i _))) fun _ => hm.trans hl) fun _ => hm

theorem takeVerdict_range (s : State) (src : Address) (p : BitVec 56) : KeepsRange s (s.takeVerdict src p) := by
  unfold State.takeVerdict
  refine .ite (fun _ => .refl s) fun _ => .ite (fun _ => .refl s) fun _ => ?_
  split
  · exact count_range fun h => by simp_all [Counters.bounded, bump_le]
  · refine .ite (fun _ => count_range fun h => by simp_all [Counters.bounded, bump_le]) fun _ => ?_
    split
    · exact matchVerdict_range s _ _ _ _
    · exact .refl s

theorem noVerdict_range (s : State) : KeepsRange s s.noVerdict :=
  .ite (fun _ => (setRun_range s (by decide)).trans (latch_range _ _)) fun h => setRun_range s (Nat.lt_of_not_le h)

theorem verdictExpiry_range (s : State) : KeepsRange s s.verdictExpiry := by
  unfold State.verdictExpiry
  split
  · exact .refl s
  · next rest hr =>
    have ht : KeepsRange s { s with vu := { s.vu with awaiting := rest } } := setAwaiting_range fun h => by
      rw [hr] at h
      exact Nat.le_of_succ_le h
    refine .ite (fun _ => ?_) fun _ => .refl s
    dsimp only
    split
    · exact ht.trans ((updCounters_range fun h => by simp_all [HeadCounters.bounded, bump_le]).trans (noVerdict_range _))
    · exact ht.trans (noVerdict_range _)

theorem zero_in_trimRange : -Config.trimMax ≤ 0 ∧ 0 ≤ Config.trimMax := by
  decide

theorem VerdictSlot.returned_inRange {v : VerdictSlot} (h : v.inRange) (jog reset : Bool) :
    (v.returned jog reset).inRange := by
  obtain ⟨hl, hu, hd⟩ := h
  cases jog with
  | true => exact ⟨hl, hu, hd⟩
  | false => cases reset with
    | true => exact ⟨zero_in_trimRange.1, zero_in_trimRange.2, Nat.zero_le _⟩
    | false => exact ⟨hl, hu, Nat.zero_le _⟩

theorem VerdictSlot.applyDue_inRange {v : VerdictSlot} (h : v.inRange) : v.applyDue.inRange := by
  obtain ⟨hl, hu, hd⟩ := h
  unfold VerdictSlot.applyDue VerdictSlot.inRange
  dsimp only
  refine ⟨?_, ?_, ?_⟩
  all_goals
    split
    · decide
    · assumption

theorem returnHead_range (s : State) (b : Bool) (i : LocalHead) : KeepsRange s (s.returnHead b i) :=
  .ite (fun _ => sendHeadState_range s i _) fun _ =>
    (updHead_range fun _ => Nat.zero_le _).trans ((updLearned_range fun h => VerdictSlot.returned_inRange h _ _).trans
      (sendHeadState_range _ i _))

theorem takeReturn_range (s : State) (src : Address) (p : BitVec 16) : KeepsRange s (s.takeReturn src p) := by
  unfold State.takeReturn
  refine .ite (fun _ => .refl s) fun _ => .ite (fun _ => .eachOwned s fun i t => returnHead_range t _ i) fun _ => ?_
  split
  · exact returnHead_range s _ _
  · exact .refl s

theorem jogEnd_range (s : State) : KeepsRange s s.jogEnd :=
  .eachOwned s fun i t => .ite
    (fun _ => (updLearned_range VerdictSlot.applyDue_inRange).trans (sendHeadState_range _ i _)) fun _ => .refl t

/-! ## Modes, notices and counters -/

theorem takeLineMode_range (s : State) (src : Address) (p : BitVec 8) : KeepsRange s (s.takeLineMode src p) := by
  have hm : ∀ m, KeepsRange s (s.setMode m) := fun m => .of_only (setMode_only s m) (by decide)
  unfold State.takeLineMode
  refine .ite (fun _ => .refl s) fun _ => ?_
  split
  · exact .refl s
  · exact .ite (fun _ => .refl s) fun _ => .ite (fun _ => (hm _).trans (sendHold_range _)) fun _ =>
      .ite (fun _ => (hm _).trans (jogEnd_range _)) fun _ => hm _

theorem Counters.zero_bounded : Counters.zero.bounded := by
  simp [Counters.bounded, Counters.zero]

theorem HeadCounters.zero_bounded : HeadCounters.zero.bounded := by
  simp [HeadCounters.bounded, HeadCounters.zero]

theorem takeLineClear_range (s : State) (src : Address) (p : BitVec 16) : KeepsRange s (s.takeLineClear src p) := by
  have he : KeepsRange s (s.emptied.clearNotices 0xFFFF) :=
    (setRecords_range (l := []) fun _ => Nat.zero_le _).trans
      ((setAwaiting_range (l := []) fun _ => Nat.zero_le _).trans
        ((setRun_range _ (n := 0) (by decide)).trans (clearNotices_range _ _)))
  have hc : ∀ t : State, KeepsRange t t.clearCounts := fun t =>
    (count_range (f := fun _ => .zero) fun _ => Counters.zero_bounded).trans
      (.eachOwned _ fun _ _ => updCounters_range fun _ => HeadCounters.zero_bounded)
  have ht : ∀ t : State, KeepsRange t (t.eachOwned State.clearTrim) := fun t => .eachOwned t fun i u =>
    updLearned_range fun h => by
      split
      · exact h
      · exact ⟨zero_in_trimRange.1, zero_in_trimRange.2, h.2.2⟩
  unfold State.takeLineClear State.lineClear
  refine .ite (fun _ => ?_) fun _ => .refl s
  dsimp only
  cases clearCounters p with
  | true => exact .ite (fun _ => (he.trans (hc _)).trans (ht _)) fun _ => he.trans (hc _)
  | false => exact .ite (fun _ => he.trans (ht _)) fun _ => he

theorem takeRequest_range (s : State) (src : Address) (p : BitVec 16) : KeepsRange s (s.takeRequest src p) := by
  unfold State.takeRequest
  refine .ite (fun _ => ?_) fun _ => .refl s
  split
  · exact handIn_range s _
  · exact .refl s

/-! ## Joining -/

theorem sendJoin_range (s : State) : KeepsRange s s.sendJoin :=
  handIn_range s _

theorem sendTimedJoin_range (s : State) : KeepsRange s s.sendTimedJoin :=
  (sendJoin_range s).trans (.of_only (setJoinTimer_only _ _) (by decide))

/-- A station that leaves JOINING begins with empty lists and a turret read as stopped; what it has learned stays (R1,
R46, R64, R125, R176). -/
theorem joinedState_range (s : State) : KeepsRange s s.joinedState := fun h =>
  { h with
    records := Nat.zero_le _
    table := Nat.zero_le _
    awaiting := Nat.zero_le _
    learned := fun i => by
      show ((s.vu.slots.map fun t => { t with trimDue := false, dudDue := false }).get i).inRange
      rw [PerHead.get_map]
      exact h.learned i
    run := Nat.zero_lt_succ _
    ttu := ⟨Nat.zero_le _, Nat.le_refl _⟩ }

theorem tryJoin_range (s : State) : KeepsRange s s.tryJoin :=
  .ite (fun _ => (joinedState_range s).trans ((changeMask_range _ _).trans (sendJoin_range _))) fun _ => .refl s

theorem joinTimer_range (s : State) : KeepsRange s s.joinTimer :=
  .ite (fun _ => sendTimedJoin_range s) fun _ => .refl s

theorem joinWindowPass_range (s : State) : KeepsRange s s.joinWindowPass :=
  .ite (fun _ => (KeepsRange.of_only (setWindow_only s _) (by decide)).trans (tryJoin_range _)) fun _ => .refl s

theorem joinEcho_range (s : State) : KeepsRange s s.joinEcho :=
  .of_only (joinEcho_only s) (by decide)

theorem enterRoster_range (s : State) (src : Address) (r : Role) (p : BitVec 24) :
    KeepsRange s (s.enterRoster src r p) := by
  have hr := KeepsRange.of_only (setRoster_only s (writeRoster (s.heardEntry src r p) s.sc.roster)) (by decide)
  have hl : ∀ (t : State) (b : Bool), KeepsRange t (if b then t.latch .headMapConflict else t) :=
    fun t _ => .ite (fun _ => latch_range t _) fun _ => .refl t
  have hj : ∀ (t : State) (b : Bool), KeepsRange t (if b then t.sendJoin else t) :=
    fun t _ => .ite (fun _ => sendJoin_range t) fun _ => .refl t
  have hv := fun b c => hr.trans ((hl _ b).trans (hj _ c))
  exact .ite (fun _ => (hv _ _).trans (tryJoin_range _)) fun _ => hv _ _

theorem takeJoin_range (s : State) (src : Address) (p : BitVec 24) : KeepsRange s (s.takeJoin src p) := by
  unfold State.takeJoin
  refine .ite (fun _ => .refl s) fun _ => ?_
  split
  · exact .ite (fun _ => enterRoster_range s src _ p) fun _ => .refl s
  · exact .refl s

theorem latchInvalid_range (s : State) (c : ConfigStatus) : KeepsRange s (s.latchInvalid c) :=
  .ite (fun _ => latch_range s _) fun _ => .refl s

theorem takeSetup_range (s : State) (src : Address) (p : BitVec 64) : KeepsRange s (s.takeSetup src p) := by
  unfold State.takeSetup
  refine .ite (fun _ => .refl s) fun _ => .ite (fun _ => latch_range s _) fun _ => ?_
  split
  · exact .refl s
  · exact (KeepsRange.of_only (setSetupParts_only s _) (by decide)).trans ((latchInvalid_range _ _).trans
      (tryJoin_range _))

theorem takeProfile_range (s : State) (src : Address) (p : BitVec 64) : KeepsRange s (s.takeProfile src p) := by
  unfold State.takeProfile
  refine .ite (fun _ => .refl s) fun _ => .ite (fun _ => latch_range s _) fun _ => .ite (fun _ => .refl s) fun _ => ?_
  dsimp only
  split
  · exact .refl s
  · exact (KeepsRange.of_only (setProfiles_only s _) (by decide)).trans ((latchInvalid_range _ _).trans
      (tryJoin_range _))

/-! ## The bus -/

theorem moveClaim_range (s : State) (f : TxFrame) (next : ClaimState → ClaimState) :
    KeepsRange s (s.moveClaim f next) :=
  .of_only (moveClaim_only s f next) (by decide)

theorem contentionStart_range (s : State) : KeepsRange s s.contentionStart := by
  unfold State.contentionStart
  split
  · next rest _ _ hq =>
    refine (setLbi_range fun h => ?_).trans (moveClaim_range _ _ _)
    rw [hq] at h
    exact Nat.le_of_succ_le h
  · exact .refl s

theorem returnFrame_range (s : State) (e : TxEntry) : KeepsRange s (s.returnFrame e) := by
  have hd : ∀ t : State, KeepsRange t (t.dropWaitingNotice e) := fun t =>
    .ite (fun _ => setLbi_range (List.length_filter_le _ _).trans) fun _ => .refl t
  exact (KeepsRange.of_only (setInFlight_only s none) (by decide)).trans ((moveClaim_range _ _ _).trans ((hd _).trans
    (enter_range _ _)))

theorem lostContention_range (s : State) (bit : Nat) (level : Bool) : KeepsRange s (s.lostContention bit level) := by
  unfold State.lostContention
  split
  · exact .ite (fun _ => returnFrame_range s _) fun _ => .refl s
  · exact .refl s

theorem badFrame_range (s : State) : KeepsRange s s.badFrame :=
  (count_range fun h => by simp_all [Counters.bounded, bump_le]).trans (latch_range _ _)

theorem transmitError_range (s : State) (bit : Nat) (level : Bool) : KeepsRange s (s.transmitError bit level) := by
  unfold State.transmitError
  split
  · exact .ite (fun _ => (badFrame_range s).trans ((returnFrame_range _ _).trans
      (.of_only (setErrorCounted_only _ true) (by decide)))) fun _ => .refl s
  · exact .refl s

theorem frameEnd_range (s : State) : KeepsRange s s.frameEnd :=
  .of_only (frameEnd_only s) (by decide)

theorem badReceived_range (s : State) (r : FrameRead) : KeepsRange s (s.badReceived r) :=
  .ite (fun _ => .ite (fun _ => frameEnd_range s) fun _ => (frameEnd_range s).trans (badFrame_range _)) fun _ => .refl s

theorem heardOther_range (s : State) (src : Address) : KeepsRange s (s.heardOther src) := by
  have hc : ∀ t : State, KeepsRange t (t.checkAddress src) := fun t => .ite
    (fun _ => (KeepsRange.of_only (setConflict_only t true) (by decide)).trans (latch_range _ _)) fun _ => .refl t
  exact (KeepsRange.of_only (setSilence_only s _) (by decide)).trans
    ((KeepsRange.of_only (endIsolation_only _) (by decide)).trans (hc _))

theorem completed_range (s : State) : KeepsRange s s.completed :=
  .of_only (completed_only s) (by decide)

theorem receive_range (s : State) (src : Address) (owner : State → State) (ho : ∀ t, KeepsRange t (owner t)) :
    KeepsRange s (s.receive src owner) :=
  .ite (fun _ => (frameEnd_range s).trans ((heardOther_range _ src).trans (ho _))) fun _ => .refl s

theorem receiveOr_range (s : State) (src : Address) (k : FrameKind) (b : List Byte) (echo owner : State → State)
    (he : ∀ t, KeepsRange t (echo t)) (ho : ∀ t, KeepsRange t (owner t)) :
    KeepsRange s (s.receiveOr src k b echo owner) :=
  .ite (fun _ => (completed_range s).trans (he _)) fun _ => receive_range s src owner ho

theorem receiveUnowned_range (s : State) (src : Address) (k : Nat) (b : List Byte) :
    KeepsRange s (s.receiveUnowned src k b) :=
  .ite (fun _ => completed_range s) fun _ => receive_range s src id .refl

theorem busIdleSeen_range (s : State) : KeepsRange s s.busIdleSeen := by
  have h : KeepsRange s { s with lbi := { s.lbi with receive := .idle } } := setLbi_range id
  exact .ite (fun _ => .ite (fun _ => h) fun _ => h.trans (sendTimedJoin_range _)) fun _ => .refl s

/-! ## Resets -/

theorem beginReset_range (s : State) : KeepsRange s s.beginReset := fun h =>
  { h with
    failures := fun i => by
      rw [beginReset_head]
      exact h.failures i }

theorem resetPin_range (s : State) : KeepsRange s s.resetPin := fun h =>
  { beginReset_range s h with
    queue := Nat.zero_le _
    learned := fun i => by
      rw [resetPin_learned]
      exact VerdictSlot.applyDue_inRange (h.learned i) }

theorem atPowerOn_inRange (now : Nat) (straps : Straps) : (State.atPowerOn now straps).InRange where
  records := Nat.zero_le _
  table := Nat.zero_le _
  awaiting := Nat.zero_le _
  queue := Nat.zero_le _
  counters := Counters.zero_bounded
  headCounters i := by
    show ((PerHead.all HeadCounters.zero).get i).bounded
    rw [PerHead.get_all]
    exact HeadCounters.zero_bounded
  learned i := by
    show ((PerHead.all VerdictSlot.atPowerOn).get i).inRange
    rw [PerHead.get_all]
    exact ⟨zero_in_trimRange.1, zero_in_trimRange.2, Nat.zero_le _⟩
  failures i := by
    show ((PerHead.all Head.atPowerOn).get i).driveFailures ≤ _
    rw [PerHead.get_all]
    exact Nat.zero_le _
  run := Nat.zero_lt_succ _
  ttu := ⟨Nat.zero_le _, Nat.le_refl _⟩

/-- A reset by the pin keeps counters, trims and dud counts (R13, R121, R125). -/
theorem afterPin_range (s : State) (straps : Straps) : KeepsRange s (s.afterPin straps) := fun h =>
  { h with
    records := Nat.zero_le _
    table := Nat.zero_le _
    awaiting := Nat.zero_le _
    queue := Nat.zero_le _
    learned := fun i => by
      show ((s.vu.slots.map VerdictSlot.afterPin).get i).inRange
      rw [PerHead.get_map]
      exact h.learned i
    failures := fun i => by
      show ((s.heads.map Head.afterPin).get i).driveFailures ≤ _
      rw [PerHead.get_map]
      exact Nat.zero_le _
    run := Nat.zero_lt_succ _
    ttu := ⟨Nat.zero_le _, Nat.le_refl _⟩ }

theorem resetEnd_range (s : State) (straps : Straps) : KeepsRange s (s.resetEnd straps) :=
  .ite (fun _ => .refl s) fun _ =>
    .ite (fun _ _ => { atPowerOn_inRange s.now straps with }) fun _ => afterPin_range s straps

/-! ## Every step -/

theorem fire_range (e : TimedEvent) (s : State) : KeepsRange s (e.fire s) := by
  cases e with
  | pitchTimeout => exact pitchTimeout_range s
  | coldStop => exact coldStop_range s
  | valveClose i => exact valveCloseTime_range s i
  | claimRetry i => exact claimRetry_range s i
  | drawExpiry src g => exact drawEntryExpiry_range s src g
  | holdExpiry => exact holdExpiry_range s
  | holdRenewal => exact holdRenewal_range s
  | stloSample => exact stloSample_range s
  | silence => exact silenceThreshold_range s
  | relistenEnd => exact .of_only (relistenEnd_only s) (by decide)
  | transactionEnd => exact transactionComplete_range s _
  | driveGrant => exact .of_only (driveGrant_only s) (by decide)
  | resultWait i => exact .of_only (resultWaitExpiry_only s i) (by simp [rangePieces, ofHeads])
  | verdictExpiry => exact verdictExpiry_range s
  | joinTimer => exact joinTimer_range s
  | joinWindow => exact joinWindowPass_range s

theorem ifJoined_range (s : State) (f : State → State) (hf : ∀ t, KeepsRange t (f t)) : KeepsRange s (s.ifJoined f) :=
  .ite (fun _ => hf s) fun _ => .refl s

theorem commandEffect_range (c : Instr) (s : State) : KeepsRange s (commandEffect c s) := by
  cases c with
  | forwardCount dt jp cp => exact ifJoined_range s (fun t => t.forwardCount jp cp) (forwardCount_range · jp cp)
  | reverseCount dt => exact ifJoined_range s _ reverseCount_range
  | illegalQuadratureStep dt => exact ifJoined_range s _ illegalStep_range
  | zeroMark dt jp cp => exact ifJoined_range s (fun t => t.zeroMark jp cp) (zeroMark_range · jp cp)
  | pitchTimeout dt => exact pitchTimeout_range s
  | coldStop dt => exact coldStop_range s
  | valveCloseTime dt i => exact valveCloseTime_range s i
  | jarRecord dt src p => exact receive_range s src (fun t => t.takeRecord src p) (takeRecord_range · src p)
  | drawClaim dt src p =>
    exact receiveOr_range s src _ _ (fun t => t.claimEcho p) (fun t => t.peerClaim src p) (claimEcho_range · p)
      (peerClaim_range · src p)
  | drawEnd dt src p =>
    exact receiveOr_range s src _ _ (fun t => t.drawEndEcho p.toNat) (fun t => t.peerDrawEnd src p.toNat)
      (drawEndEcho_range · p.toNat) (peerDrawEnd_range · src p.toNat)
  | steamHold dt src p =>
    exact receiveOr_range s src _ _ (fun t => t.takeHold .own p.toNat) (fun t => t.takeHold .peer p.toNat)
      (takeHold_range · .own p.toNat) (takeHold_range · .peer p.toNat)
  | claimRetry dt i => exact claimRetry_range s i
  | drawEntryExpiry dt src head => exact drawEntryExpiry_range s src head
  | holdExpiry dt => exact holdExpiry_range s
  | holdRenewal dt => exact holdRenewal_range s
  | stloFall r => exact (stloFilter_range s _ _).trans (stloSample_range _)
  | stloRise r => exact (stloFilter_range s _ _).trans (stloSample_range _)
  | silenceThreshold dt => exact silenceThreshold_range s
  | relistenEnd dt => exact .of_only (relistenEnd_only s) (by decide)
  | driveGrant dt => exact .of_only (driveGrant_only s) (by decide)
  | driveTransactionComplete dt reply => exact transactionComplete_range s reply
  | resultWaitExpiry dt i => exact .of_only (resultWaitExpiry_only s i) (by simp [rangePieces, ofHeads])
  | verdict dt src p => exact receive_range s src (fun t => t.takeVerdict src p) (takeVerdict_range · src p)
  | verdictExpiry dt => exact verdictExpiry_range s
  | headReturn dt src p => exact receive_range s src (fun t => t.takeReturn src p) (takeReturn_range · src p)
  | lineMode dt src p => exact receive_range s src (fun t => t.takeLineMode src p) (takeLineMode_range · src p)
  | lineClear dt src p => exact receive_range s src (fun t => t.takeLineClear src p) (takeLineClear_range · src p)
  | join dt src p => exact receiveOr_range s src _ _ _ (fun t => t.takeJoin src p) joinEcho_range (takeJoin_range · src p)
  | joinTimer dt => exact joinTimer_range s
  | joinWindowPass dt => exact joinWindowPass_range s
  | setup dt src p => exact receive_range s src (fun t => t.takeSetup src p) (takeSetup_range · src p)
  | profile dt src p => exact receive_range s src (fun t => t.takeProfile src p) (takeProfile_range · src p)
  | noticeClear dt src p =>
    exact receive_range s src (fun t => t.takeNoticeClear src p) fun t => .ite (fun _ => clearNotices_range t _) fun _ => .refl t
  | noticeMaskSet dt src p =>
    exact receive_range s src (fun t => t.takeMaskSet src p) fun t => .ite (fun _ => changeMask_range t _) fun _ => .refl t
  | noticeMaskClear dt src p =>
    exact receive_range s src (fun t => t.takeMaskClear src p) fun t => .ite (fun _ => changeMask_range t _) fun _ => .refl t
  | counterRequest dt src p => exact receive_range s src (fun t => t.takeRequest src p) (takeRequest_range · src p)
  | frameContentionStart dt => exact contentionStart_range s
  | lostContention r => exact lostContention_range s r.bit r.level
  | transmitError r => exact transmitError_range s r.bit r.level
  | badFrameReceived dt r => exact badReceived_range s r
  | unownedFrame dt src kind payload => exact receiveUnowned_range s src kind.toNat payload
  | busIdleSeen dt => exact busIdleSeen_range s
  | supplyLow dt => exact fun h => { beginReset_range s h with }
  | resetPin dt => exact resetPin_range s
  | resetEnd dt addr hcPins fh => exact resetEnd_range s _
  | startBit dt => exact .of_only (startBit_only s) (by decide)
  | contentionWon dt => exact .of_only (contentionWon_only s) (by decide)
  | joinEcho dt => exact .of_only (receiveJoinEcho_only s) (by decide)

/-- The law is kept by every step. -/
theorem keptByStep_inRange : KeptByStep State.InRange :=
  keptByStep_of_effects (fun _ _ h => { h with }) (fun _ _ _ h => { h with }) (fun e s => fire_range e s)
    fun c s _ => commandEffect_range c s

/-- Settles O54: the law is what the statement bounds, and the clock, every timed row and every command's effect keep
it. -/
theorem listsCountersAndLearnedValuesStayInRange : Obligations.ListsCountersAndLearnedValuesStayInRange :=
  fun s t hs ht => inRange_iff.1 (keptByStep_inRange s t (inRange_iff.2 hs) ht)

end Sys2Proof.Machine
end

section
/-!
The seqs a station holds: how often each is held, what keeps the open cycles with the records and entries, what ends or
begins a cycle, and the angle events.
-/
namespace Sys2Proof.Machine

/-! ## How often a seq is held -/

/-- How often a seq stands in the Record Queue. -/
def State.timesQueued (s : State) (q : Nat) : Nat :=
  (s.rq.map (·.seq)).count q

/-- How often a seq stands in the awaiting-verdict table. -/
def State.timesAwaiting (s : State) (q : Nat) : Nat :=
  (s.vu.awaiting.map (·.seq)).count q

/-- Whether a head's cycle is bound to a seq, as a number. -/
def Head.timesBound (h : Head) (q : Nat) : Nat :=
  if h.bound.map (·.seq) = some q then 1 else 0

theorem Head.timesBound_none {h : Head} (hb : h.bound = none) (q : Nat) : h.timesBound q = 0 := by
  simp [Head.timesBound, hb]

theorem Head.timesBound_some {h : Head} {r : JarRecord} (hb : h.bound = some r) (q : Nat) :
    h.timesBound q = if r.seq = q then 1 else 0 := by
  by_cases hq : r.seq = q <;> simp [Head.timesBound, hb, hq]

/-- How many heads' cycles are bound to a seq. -/
def State.timesBound (s : State) (q : Nat) : Nat :=
  (([0, 1, 2, 3] : List LocalHead).map fun i => (s.head i).timesBound q).sum

theorem count_filterMap_eq_sum {α : Type} (l : List α) (f : α → Option Nat) (q : Nat) :
    (l.filterMap f).count q = (l.map fun a => if f a = some q then 1 else 0).sum := by
  induction l with
  | nil => rfl
  | cons a l ih =>
    cases h : f a with
    | none => simp [List.filterMap_cons_none h, ih, h]
    | some b => simp [List.filterMap_cons_some h, List.count_cons, ih, h, Nat.add_comm]

/-- A seq is held as often as its three places say (R34). -/
theorem count_seqsHeld (s : State) (q : Nat) :
    s.seqsHeld.count q = s.timesQueued q + s.timesBound q + s.timesAwaiting q := by
  unfold State.seqsHeld
  rw [List.count_append, List.count_append, count_filterMap_eq_sum]
  rfl

theorem timesQueued_of_same {s t : State} (h : Piece.records.same s t) (q : Nat) : t.timesQueued q = s.timesQueued q := by
  simp only [Piece.same] at h
  rw [State.timesQueued, h, State.timesQueued]

theorem timesAwaiting_of_same {s t : State} (h : Piece.awaiting.same s t) (q : Nat) :
    t.timesAwaiting q = s.timesAwaiting q := by
  simp only [Piece.same] at h
  rw [State.timesAwaiting, h, State.timesAwaiting]

theorem timesBound_congr {s t : State} {q : Nat} (h : ∀ i, (t.head i).timesBound q = (s.head i).timesBound q) :
    t.timesBound q = s.timesBound q := by
  unfold State.timesBound
  simp only [h]

/-- Where one head alone changes, the heads are bound to a seq as often as before but for that head. -/
theorem timesBound_of_head {s t : State} {i : LocalHead} (q : Nat) (h : ∀ j, j ≠ i → t.head j = s.head j) :
    t.timesBound q + (s.head i).timesBound q = s.timesBound q + (t.head i).timesBound q := by
  simp only [State.timesBound, List.map_cons, List.map_nil, List.sum_cons, List.sum_nil]
  fin_cases i
  · simp only [h 1 (by decide), h 2 (by decide), h 3 (by decide), Fin.zero_eta]
    omega
  · simp only [h 0 (by decide), h 2 (by decide), h 3 (by decide), Fin.mk_one]
    omega
  · simp only [h 0 (by decide), h 1 (by decide), h 3 (by decide), Fin.reduceFinMk]
    omega
  · simp only [h 0 (by decide), h 1 (by decide), h 2 (by decide), Fin.reduceFinMk]
    omega

/-- How often a seq may be held: 65535 never, any other once (R34). -/
def seqLimit (q : Nat) : Nat :=
  if q = Config.noSeq then 0 else 1

/-- No seq is held twice and none is 65535 where each is held no more often than it may be. -/
theorem seqsHeldOnce_iff {s : State} :
    s.seqsHeldOnce ↔ s.idleHeadsEmpty ∧ ∀ q, s.seqsHeld.count q ≤ seqLimit q := by
  refine and_congr_right fun _ => ⟨fun ⟨hn, h⟩ q => ?_, fun h => ⟨List.nodup_iff_count_le_one.2 fun q => ?_, ?_⟩⟩
  · unfold seqLimit
    split
    · next hq => exact Nat.le_of_eq (List.count_eq_zero.2 fun hm => h q hm hq)
    · exact List.nodup_iff_count_le_one.1 hn q
  · have := h q
    unfold seqLimit at this
    split at this <;> omega
  · rintro q hm rfl
    exact absurd (List.count_pos_iff.2 hm) (Nat.not_lt.2 (h Config.noSeq))

/-! ## Cycles that go on -/

/-- From `h` to `h'` an open cycle goes on with its record, or nothing changes that an idle head must not hold. -/
def Head.GoesOn (h h' : Head) : Prop :=
  h'.bound = h.bound ∧ (h.phase ≠ .idle ∧ h'.phase ≠ .idle
    ∨ h'.phase = h.phase ∧ h'.flags = h.flags ∧ h'.setupDone = h.setupDone ∧ h'.applied = h.applied)

theorem Head.GoesOn.refl (h : Head) : h.GoesOn h :=
  ⟨rfl, Or.inr ⟨rfl, rfl, rfl, rfl⟩⟩

theorem Head.SameCycle.goesOn {h h' : Head} (hs : h.SameCycle h') : h.GoesOn h' :=
  ⟨hs.bound, Or.inr ⟨hs.phase, hs.flags, hs.setupDone, hs.applied⟩⟩

theorem Head.GoesOn.of_open {h h' : Head} (hb : h'.bound = h.bound) (hp : h.phase ≠ .idle) (hp' : h'.phase ≠ .idle) :
    h.GoesOn h' :=
  ⟨hb, Or.inl ⟨hp, hp'⟩⟩

theorem Head.GoesOn.trans {h h' h'' : Head} (h₁ : h.GoesOn h') (h₂ : h'.GoesOn h'') : h.GoesOn h'' := by
  obtain ⟨hb₁, c₁⟩ := h₁
  obtain ⟨hb₂, c₂⟩ := h₂
  refine ⟨hb₂.trans hb₁, ?_⟩
  rcases c₁ with ⟨hp, hp'⟩ | ⟨hp, hf, hs, ha⟩
  · rcases c₂ with ⟨-, hp''⟩ | ⟨hp'', -⟩
    · exact Or.inl ⟨hp, hp''⟩
    · exact Or.inl ⟨hp, hp''.symm ▸ hp'⟩
  · rcases c₂ with ⟨hp', hp''⟩ | ⟨hp'', hf', hs', ha'⟩
    · exact Or.inl ⟨hp ▸ hp', hp''⟩
    · exact Or.inr ⟨hp''.trans hp, hf'.trans hf, hs'.trans hs, ha'.trans ha⟩

theorem Head.GoesOn.timesBound {h h' : Head} (hg : h.GoesOn h') (q : Nat) : h'.timesBound q = h.timesBound q := by
  unfold Head.timesBound
  rw [hg.1]

/-- From `s` to `t` every cycle goes on, and no record and no awaiting-verdict entry comes in. -/
structure KeepsCycles (s t : State) : Prop where
  straps : t.sc.straps = s.sc.straps
  records : t.rq.Sublist s.rq
  awaiting : t.vu.awaiting.Sublist s.vu.awaiting
  heads : ∀ i, (s.head i).GoesOn (t.head i)

theorem KeepsCycles.refl (s : State) : KeepsCycles s s :=
  ⟨rfl, List.Sublist.refl _, List.Sublist.refl _, fun _ => .refl _⟩

theorem KeepsCycles.trans {s t u : State} (h₁ : KeepsCycles s t) (h₂ : KeepsCycles t u) : KeepsCycles s u :=
  ⟨h₂.straps.trans h₁.straps, h₂.records.trans h₁.records, h₂.awaiting.trans h₁.awaiting,
    fun i => (h₁.heads i).trans (h₂.heads i)⟩

theorem KeepsCycles.ite {c : Prop} [Decidable c] {s t u : State} (h₁ : c → KeepsCycles s t)
    (h₂ : ¬c → KeepsCycles s u) : KeepsCycles s (if c then t else u) := by
  split
  · exact h₁ ‹_›
  · exact h₂ ‹_›

theorem KeepsCycles.eachOwned (s : State) {act : LocalHead → State → State} (h : ∀ i t, KeepsCycles t (act i t)) :
    KeepsCycles s (s.eachOwned act) :=
  foldl_keeps (P := KeepsCycles s) (.refl s) fun i _ t ht => ht.trans (h i t)

/-- What changes one head alone keeps the cycles where that head's goes on. -/
theorem KeepsCycles.of_head {ps : List Piece} {s t : State} {i : LocalHead} (h : ChangesOnly ps s t)
    (hd : ∀ p ∈ [Piece.records, .awaiting, .resetting], p ∉ ps) (ho : ∀ j, j ≠ i → .head j ∉ ps)
    (hi : (s.head i).GoesOn (t.head i)) : KeepsCycles s t where
  straps := (h.keeps .resetting (hd _ (by decide))).2.2.2
  records := by
    have hr := h.keeps .records (hd _ (by decide))
    simp only [Piece.same] at hr
    rw [hr]
  awaiting := by
    have ha := h.keeps .awaiting (hd _ (by decide))
    simp only [Piece.same] at ha
    rw [ha]
  heads j := by
    by_cases hj : j = i
    · exact hj ▸ hi
    · rw [head_of_only h j (ho j hj)]
      exact .refl _

/-- What changes no head, no record and no entry keeps the cycles. -/
theorem KeepsCycles.of_only {ps : List Piece} {s t : State} (h : ChangesOnly ps s t)
    (hd : ∀ p ∈ [Piece.records, .awaiting, .resetting], p ∉ ps) (hh : ∀ j, .head j ∉ ps) : KeepsCycles s t :=
  .of_head (i := 0) h hd (fun j _ => hh j) (by rw [head_of_only h 0 (hh 0)]; exact .refl _)

/-! ## Seqs held no more often -/

/-- From `s` to `t` idle heads stay empty and no seq comes to be held more often. -/
structure SeqsWithin (s t : State) : Prop where
  straps : t.sc.straps = s.sc.straps
  idle : s.idleHeadsEmpty → t.idleHeadsEmpty
  held : ∀ q, t.seqsHeld.count q ≤ s.seqsHeld.count q

theorem SeqsWithin.trans {s t u : State} (h₁ : SeqsWithin s t) (h₂ : SeqsWithin t u) : SeqsWithin s u :=
  ⟨h₂.straps.trans h₁.straps, h₂.idle ∘ h₁.idle, fun q => (h₂.held q).trans (h₁.held q)⟩

theorem SeqsWithin.heldOnce {s t : State} (h : SeqsWithin s t) (hs : s.seqsHeldOnce) : t.seqsHeldOnce := by
  rw [seqsHeldOnce_iff] at hs ⊢
  exact ⟨h.idle hs.1, fun q => (h.held q).trans (hs.2 q)⟩

theorem owns_of_straps {s t : State} (h : t.sc.straps = s.sc.straps) (i : LocalHead) : t.owns i = s.owns i := by
  unfold State.owns State.hc
  rw [h]

/-- Where every cycle goes on, idle heads stay empty. -/
theorem KeepsCycles.idle {s t : State} (h : KeepsCycles s t) (hs : s.idleHeadsEmpty) : t.idleHeadsEmpty := by
  intro i
  obtain ⟨hb, hc⟩ := h.heads i
  obtain ⟨hi, he⟩ := hs i
  rw [owns_of_straps h.straps]
  rcases hc with ⟨hp, hp'⟩ | ⟨hp, hf, hsd, ha⟩
  · exact ⟨fun ho => absurd (hi ho) hp, fun hp'' => absurd hp'' hp'⟩
  · rw [hb, hp, hf, hsd, ha]
    exact ⟨hi, he⟩

theorem KeepsCycles.within {s t : State} (h : KeepsCycles s t) : SeqsWithin s t where
  straps := h.straps
  idle := h.idle
  held q := by
    have hr : t.timesQueued q ≤ s.timesQueued q := (h.records.map _).count_le q
    have ha : t.timesAwaiting q ≤ s.timesAwaiting q := (h.awaiting.map _).count_le q
    have hh := timesBound_congr (q := q) fun i => (h.heads i).timesBound q
    rw [count_seqsHeld, count_seqsHeld, hh]
    omega

theorem SeqsWithin.refl (s : State) : SeqsWithin s s :=
  (KeepsCycles.refl s).within

theorem SeqsWithin.ite {c : Prop} [Decidable c] {s t u : State} (h₁ : c → SeqsWithin s t) (h₂ : ¬c → SeqsWithin s u) :
    SeqsWithin s (if c then t else u) := by
  split
  · exact h₁ ‹_›
  · exact h₂ ‹_›

/-- An action at each owned head in turn. -/
theorem SeqsWithin.eachOwned (s : State) {act : LocalHead → State → State}
    (h : ∀ i t, t.owns i = true → SeqsWithin t (act i t)) : SeqsWithin s (s.eachOwned act) :=
  foldl_keeps (P := SeqsWithin s) (.refl s) fun i hi t ht =>
    ht.trans (h i t ((owns_of_straps ht.straps i).trans (mem_owned.1 hi)))

/-! ## Changes within a cycle -/

theorem updHead_cycles {s : State} {i : LocalHead} {f : Head → Head} (h : (s.head i).GoesOn (f (s.head i))) :
    KeepsCycles s (s.updHead i f) :=
  .of_head (i := i) (updHead_only s i f) (by simp) (fun j hj => by simp [hj])
    (by rw [State.head_updHead_same]; exact h)

theorem updClaim_cycles (s : State) (i : LocalHead) (f : Claim → Claim) : KeepsCycles s (s.updClaim i f) :=
  .of_only (updClaim_only s i f) (by simp) (by simp)

theorem updSlot_cycles (s : State) (i : LocalHead) (f : DriveSlot → DriveSlot) : KeepsCycles s (s.updSlot i f) :=
  .of_only (updSlot_only s i f) (by simp) (by simp)

theorem flag_cycles {s : State} {i : LocalHead} (h : (s.head i).phase ≠ .idle) (f : JarFlag) :
    KeepsCycles s (s.flag i f) :=
  updHead_cycles (.of_open rfl h h)

theorem markJog_cycles {s : State} {i : LocalHead} (h : (s.head i).phase ≠ .idle) : KeepsCycles s (s.markJog i) :=
  .ite (fun _ => flag_cycles h _) fun _ => .refl s

theorem handIn_cycles (s : State) (f : TxFrame) : KeepsCycles s (s.handIn f) :=
  .of_only (handIn_any s f) (by decide) (by decide)

theorem latch_cycles (s : State) (n : Notice) : KeepsCycles s (s.latch n) :=
  .of_only (latch_only s n) (by decide) (by decide)

theorem withdrawClaim_cycles (s : State) (i : LocalHead) : KeepsCycles s (s.withdrawClaim i) :=
  .of_head (i := i) (withdrawClaim_only s i) (by simp) (fun j hj => by simp [hj]) (withdrawClaim_sameCycle s i).goesOn

theorem benchHead_cycles (s : State) (i : LocalHead) (r : BenchReason) : KeepsCycles s (s.benchHead i r) :=
  .of_head (i := i) (benchHead_only s i r) (by simp [reporting]) (fun j hj => by simp [reporting, hj])
    (benchHead_sameCycle s i r).goesOn

theorem driveFailed_cycles (s : State) (i : LocalHead) : KeepsCycles s (s.driveFailed i) :=
  .of_head (i := i) (driveFailed_only s i) (by simp [reporting]) (fun j hj => by simp [reporting, hj])
    (driveFailed_sameCycle s i).goesOn

/-- An admission opens the valve of a head whose cycle is in CLAIMING (R19). -/
theorem reportAdmission_cycles (s : State) (i : LocalHead) (dwell : Nat) (x : Bool) :
    KeepsCycles s (s.reportAdmission i dwell x) := by
  refine .ite (fun hm => ?_) fun _ => handIn_cycles s _
  have hp : (s.head i).phase ≠ .idle := by simp [((mayClaim_iff s i).1 hm).1]
  have ho : ((s.head i).openFor s.now dwell x).phase ≠ .idle := by simp [Head.openFor]
  exact (updHead_cycles (.of_open rfl hp ho)).trans (markJog_cycles (by rw [State.head_updHead_same]; exact ho))

theorem writeEntry_cycles (s : State) (src : Address) (g f dwell : Nat) :
    KeepsCycles s (s.writeEntry src g f dwell) :=
  .of_only (writeEntry_only s src g f dwell) (by decide) (by decide)

theorem refuseClaim_cycles (s : State) (i : LocalHead) :
    KeepsCycles s ((s.count fun k => { k with claimsRefused := bump k.claimsRefused }).claimRefused i) :=
  .of_only ((count_claimsRefused_only s _).comp (claimRefused_only _ i)) (by simp) (by simp)

theorem announce_cycles (s : State) (i : LocalHead) (c : Claim) : KeepsCycles s (s.announce i c) :=
  .ite
    (fun _ => .ite
      (fun _ => (writeEntry_cycles s _ _ _ _).trans ((updClaim_cycles _ i _).trans
        ((reportAdmission_cycles _ i _ _).trans (handIn_cycles _ _))))
      fun _ => (updClaim_cycles s i _).trans (refuseClaim_cycles _ i))
    fun _ => (updClaim_cycles s i _).trans (handIn_cycles _ _)

theorem endClaims_cycles (s : State) (i : LocalHead) : KeepsCycles s (s.endClaims i) :=
  updHead_cycles (.refl (s.head i))

theorem formClaim_cycles {s : State} {i : LocalHead} (h : (s.head i).phase ≠ .idle) : KeepsCycles s (s.formClaim i) := by
  unfold State.formClaim
  dsimp only
  split
  · exact (updClaim_cycles s i _).trans (endClaims_cycles _ i)
  · split
    · exact (flag_cycles h _).trans (announce_cycles _ i _)
    · exact announce_cycles s i _

theorem claimRetry_cycles (s : State) (i : LocalHead) : KeepsCycles s (s.claimRetry i) := by
  unfold State.claimRetry
  split
  · refine .ite (fun _ => .ite (fun hm => ?_) fun _ => updClaim_cycles s i _) fun _ => .refl s
    have hp : (s.head i).phase ≠ .idle := by simp [((mayClaim_iff s i).1 hm).1]
    exact (updClaim_cycles s i _).trans (formClaim_cycles hp)
  all_goals exact .refl s

theorem claimEcho_cycles (s : State) (p : BitVec 32) : KeepsCycles s (s.claimEcho p) := by
  unfold State.claimEcho
  refine .ite (fun _ => .refl s) fun _ => ?_
  split
  · next i _ =>
    exact .ite (fun _ => updClaim_cycles s i _) fun _ =>
      .ite (fun _ => (writeEntry_cycles s _ _ _ _).trans ((updClaim_cycles _ i _).trans (reportAdmission_cycles _ i _ _)))
        fun _ => refuseClaim_cycles s i
  · exact .refl s

theorem recheckClaims_cycles (s : State) : KeepsCycles s s.recheckClaims :=
  .eachOwned s fun i t => .ite (fun _ => withdrawClaim_cycles t i) fun _ => .refl t

theorem valveCloseTime_cycles (s : State) (i : LocalHead) : KeepsCycles s (s.valveCloseTime i) := by
  by_cases hd : s.valveCloseDue i = true
  · have hp : (s.head i).phase ≠ .idle := by simp [((valveCloseDue_iff s i).1 hd).1]
    exact .of_head (i := i) (valveCloseTime_only s i) (by simp [reporting]) (fun j hj => by simp [reporting, hj])
      (by rw [valveCloseTime_head hd]; exact .of_open rfl hp hp)
  · rw [State.valveCloseTime, if_neg hd]
    exact .refl s

/-! ## The end of a cycle -/

theorem endCycle_timesBound (h : Head) (q : Nat) : h.endCycle.timesBound q = 0 :=
  rfl

/-- A hand-off adds the entry's seq and no other (R126, R127). -/
theorem handOff_timesAwaiting (s : State) (e : AwaitingEntry) (q : Nat) :
    (s.handOff e).timesAwaiting q ≤ s.timesAwaiting q + if e.seq = q then 1 else 0 := by
  have happ : ∀ l : List AwaitingEntry, ((l ++ [e]).map (·.seq)).count q
      = (l.map (·.seq)).count q + if e.seq = q then 1 else 0 := fun l => by
    simp [List.count_singleton]
  unfold State.handOff
  split
  · exact Nat.le_of_eq (happ _)
  · rw [timesAwaiting_of_same ((latch_only _ _).keeps .awaiting (by decide))]
    refine (Nat.le_of_eq (happ (s.vu.awaiting.drop 1))).trans (Nat.add_le_add_right ?_ _)
    exact ((List.drop_sublist 1 _).map _).count_le q

/-- The jar at a head is handed off under the seq its cycle is bound to (R117, R122). -/
theorem handOffJar_timesAwaiting (s : State) (i : LocalHead) (o : JarOutcome) (q : Nat) :
    (s.handOffJar i o).timesAwaiting q ≤ s.timesAwaiting q + (s.head i).timesBound q := by
  unfold State.handOffJar
  split
  · next h =>
    have hs : (if (s.awaitingEntry i).seq = q then 1 else 0) ≤ (s.head i).timesBound q := by
      simp only [Bool.and_eq_true, decide_eq_true_eq] at h
      cases hb : (s.head i).bound with
      | none => simp [hb, seqOf] at h
      | some r =>
        rw [Head.timesBound_some hb, State.awaitingEntry, hb]
        exact Nat.le_refl _
    exact (handOff_timesAwaiting s _ q).trans (Nat.add_le_add_left hs _)
  · exact Nat.le_add_right _ _

theorem finish_timesAwaiting (s : State) (i : LocalHead) (o : JarOutcome) (torque angle q : Nat) :
    (s.finish i o torque angle).timesAwaiting q ≤ s.timesAwaiting q + (s.head i).timesBound q := by
  have h := reportJar_only s i true (s.jarReport i o torque angle)
  have hb := handOffJar_timesAwaiting (s.reportJar i true (s.jarReport i o torque angle)) i o q
  rw [head_of_only h i (by simp [reporting]), timesAwaiting_of_same (h.keeps .awaiting (by simp [reporting]))] at hb
  exact hb

/-- A cycle that ends leaves its head empty, and its seq goes to the awaiting-verdict table at most (R118, R122). -/
theorem finish_within (s : State) (i : LocalHead) (o : JarOutcome) (torque angle : Nat) :
    SeqsWithin s (s.finish i o torque angle) := by
  have hf := finish_only s i o torque angle
  have hj : ∀ j, j ≠ i → (s.finish i o torque angle).head j = s.head j := fun j hj =>
    head_of_only hf j (by simp [finishPieces, handOffPieces, reporting, hj])
  have hstraps := (hf.keeps .resetting (by simp [finishPieces, handOffPieces, reporting])).2.2.2
  refine ⟨hstraps, fun hs j => ?_, fun q => ?_⟩
  · rw [owns_of_straps hstraps]
    by_cases h : j = i
    · rw [h, finish_head]
      exact ⟨fun _ => rfl, fun _ => ⟨rfl, rfl, rfl, rfl⟩⟩
    · rw [hj j h]
      exact hs j
  · have hr := timesQueued_of_same (hf.keeps .records (by simp [finishPieces, handOffPieces, reporting])) q
    have hb := timesBound_of_head q hj
    have ha := finish_timesAwaiting s i o torque angle q
    rw [finish_head, endCycle_timesBound] at hb
    rw [count_seqsHeld, count_seqsHeld, hr]
    omega

theorem closeOut_within {s : State} {i : LocalHead} (h : (s.head i).phase ≠ .idle) : SeqsWithin s (s.closeOut i) := by
  rw [closeOut_eq_driveFailed]
  have hc : KeepsCycles s (s.closing i) := (updSlot_cycles s i _).trans (updHead_cycles (.of_open rfl h h))
  exact hc.within.trans ((finish_within _ i _ _ _).trans (driveFailed_cycles _ i).within)

theorem abortHead_within (i : LocalHead) (s : State) : SeqsWithin s (State.abortHead i s) := by
  by_cases h : (s.head i).phase = .idle
  · rw [abortHead_idle h]
    exact .refl s
  · rw [abortHead_open h]
    have he : KeepsCycles s (s.abortEnd i) :=
      .of_head (i := i) (abortEnd_only s i) (by simp [reporting]) (fun j hj => by simp [reporting, hj])
        (by rw [abortEnd_head]; exact .of_open rfl h h)
    exact he.within.trans (finish_within _ i _ _ _)

theorem abortAll_within (s : State) : SeqsWithin s s.abortAll :=
  .eachOwned s fun i t _ => abortHead_within i t

/-! ## The beginning of a cycle -/

/-- A record taken out of a list and the records that its test leaves hold no seq more often than the list. -/
theorem count_head?_filter_le (l : List JarRecord) (g q : Nat) :
    ((l.filter fun r => r.head != g).map (·.seq)).count q
      + (if (l.filter fun r => r.head == g).head?.map (·.seq) = some q then 1 else 0)
      ≤ (l.map (·.seq)).count q := by
  induction l with
  | nil => simp
  | cons r l ih =>
    by_cases hr : r.head = g
    · have hsub : ((l.filter fun r => r.head != g).map (·.seq)).count q ≤ (l.map (·.seq)).count q :=
        ((List.filter_sublist).map _).count_le q
      simpa [hr, List.count_cons] using hsub
    · simp only [List.filter_cons, hr, bne_iff_ne, ne_eq, not_false_eq_true, if_true, beq_iff_eq, if_false,
        List.map_cons, List.count_cons]
      omega

theorem takeRecords_cycles (s : State) (g : Nat) : KeepsCycles s (s.takeRecords g) :=
  ⟨rfl, List.filter_sublist, List.Sublist.refl _, fun _ => .refl _⟩

theorem count_cycles (s : State) (f : Counters → Counters) : KeepsCycles s (s.count f) :=
  ⟨rfl, List.Sublist.refl _, List.Sublist.refl _, fun _ => .refl _⟩

theorem passTaken_cycles (s : State) (i : LocalHead) (f : Counters → Counters) : KeepsCycles s (s.passTaken i f) :=
  (takeRecords_cycles s _).trans (count_cycles _ f)

theorem reportJar_cycles (s : State) (i : LocalHead) (b : Bool) (r : JarReport) : KeepsCycles s (s.reportJar i b r) :=
  .of_only (reportJar_only s i b r) (by simp [reporting]) (by simp [reporting])

/-- A cycle begins at an owned head, bound to the oldest of the records that its pass takes out of the queue (R16, R39). -/
theorem passTaken_beginCycle_within {s : State} {i : LocalHead} (ho : s.owns i = true) (f : Counters → Counters) :
    SeqsWithin s ((s.passTaken i f).beginCycle i (s.dueRecords (s.globalHead i)).head?) := by
  have hb := beginCycle_only (s.passTaken i f) i (s.dueRecords (s.globalHead i)).head?
  have hh : ((s.passTaken i f).beginCycle i (s.dueRecords (s.globalHead i)).head?).head i
      = (s.passTaken i f).seatedHead i (s.dueRecords (s.globalHead i)).head? := beginCycle_head _ _ _
  have hs := (hb.keeps .resetting (by simp [reporting])).2.2.2
  have hj : ∀ j, j ≠ i → ((s.passTaken i f).beginCycle i (s.dueRecords (s.globalHead i)).head?).head j = s.head j :=
    fun j hj => head_of_only hb j (by simp [reporting, hj])
  refine ⟨hs, fun hi j => ?_, fun q => ?_⟩
  · rw [owns_of_straps (s := s) hs]
    by_cases h : j = i
    · rw [h, hh]
      exact ⟨fun hn => by simp [ho] at hn, fun hp => by cases hp⟩
    · rw [hj j h]
      exact hi j
  · have hbound := timesBound_of_head q hj
    have hr := timesQueued_of_same (hb.keeps .records (by simp [reporting])) q
    have ha : _ = s.timesAwaiting q := timesAwaiting_of_same (hb.keeps .awaiting (by simp [reporting])) q
    have hmoved : (s.passTaken i f).timesQueued q
        + ((s.passTaken i f).seatedHead i (s.dueRecords (s.globalHead i)).head?).timesBound q ≤ s.timesQueued q :=
      count_head?_filter_le s.rq (s.globalHead i) q
    rw [hh] at hbound
    rw [count_seqsHeld, count_seqsHeld, hr, ha]
    omega

/-! ## The angle events -/

theorem idlePass_within {s : State} {i : LocalHead} (ho : s.owns i = true) (jar : Bool) :
    SeqsWithin s (s.idlePass i jar) := by
  cases jar with
  | false =>
    rw [idlePass_noJar]
    exact (passTaken_cycles s i _).within
  | true =>
    by_cases hb : (s.head i).bench = none
    · rw [idlePass_active hb]
      exact .ite (fun _ => passTaken_beginCycle_within ho _) fun _ =>
        ((passTaken_cycles s i _).trans (reportJar_cycles _ i _ _)).within
    · rw [idlePass_benched hb]
      exact ((passTaken_cycles s i _).trans (reportJar_cycles _ i _ _)).within

theorem infeedPass_within {s : State} {i : LocalHead} (ho : s.owns i = true) (jar : Bool) :
    SeqsWithin s (s.infeedPass i jar) := by
  cases hp : (s.head i).phase with
  | idle =>
    rw [infeedPass_idle hp]
    exact idlePass_within ho jar
  | releasing =>
    have hc := closeOut_within (s := s) (i := i) (by simp [hp])
    rw [infeedPass_releasing hp, infeedPass_idle (closeOut_phase s i)]
    exact hc.trans (idlePass_within ((owns_of_straps hc.straps i).trans ho) jar)
  | _ =>
    unfold State.infeedPass
    rw [hp]
    exact .refl s

theorem capPick_within (s : State) (i : LocalHead) (cap : Bool) : SeqsWithin s (s.capPick i cap) := by
  by_cases hp : (s.head i).phase = .seated
  · have ho : (s.head i).phase ≠ .idle := by simp [hp]
    cases cap with
    | true =>
      rw [capPick_cap hp]
      exact (updHead_cycles (.of_open rfl ho (by simp))).within
    | false =>
      rw [capPick_noCap hp]
      have hn : KeepsCycles s (s.noCapState i) :=
        .of_head (i := i) (noCapState_only s i) (by simp) (fun j hj => by simp [hj])
          (by rw [noCapState_head]; exact .of_open rfl ho ho)
      exact hn.within.trans (finish_within _ i _ _ _)
  · rw [State.capPick, if_neg hp]
    exact .refl s

theorem flushStart_cycles (s : State) (i : LocalHead) : KeepsCycles s (s.flushStart i) := by
  by_cases hp : (s.head i).phase = .capHeld
  · have hopen : ∀ h : Head, h.phase = .claiming → h.bound = (s.head i).bound → KeepsCycles s (s.updHead i fun _ => h) :=
      fun h hc hb => updHead_cycles (.of_open hb (by simp [hp]) (by simp [hc]))
    by_cases hb : (s.head i).bench = none
    · rw [flushStart_active hp hb]
      have ht := hopen { s.head i with phase := .claiming, flags := s.withJog (s.head i).flags } rfl rfl
      exact .ite (fun _ => ht.trans (formClaim_cycles (by rw [State.head_updHead_same]; simp))) fun _ => ht
    · rw [flushStart_benched hp hb]
      exact hopen _ rfl rfl
  · rw [State.flushStart, if_neg hp]
    exact .refl s

theorem seat_cycles (s : State) (i : LocalHead) : KeepsCycles s (s.seat i) := by
  have hgo : ∀ {ps : List Piece} {u : State}, ChangesOnly ps s u → (∀ p ∈ ps, p ∈ [.head i, .claim i] ++ reporting) →
      (s.head i).GoesOn (u.head i) → KeepsCycles s u := fun h hps hg =>
    .of_head (i := i) (h.mono hps) (by simp [reporting]) (fun j hj => by simp [reporting, hj]) hg
  cases hp : (s.head i).phase with
  | claiming =>
    obtain ⟨hh, -, -, hc⟩ := seating_then_head (seat_claiming hp)
    exact hgo hc (by simp [reporting]) (by rw [hh]; exact .of_open rfl (by simp [hp]) (by simp))
  | flushing =>
    cases hv : (s.head i).valveOpen with
    | true =>
      have hc : ChangesOnly ([.head i, .claim i] ++ reporting) s (s.seat i) := by
        rw [seat_flushing_open hp hv]
        exact ((seating_only s i).comp ((flag_only _ i _).comp ((closeValve_only _ i).comp (setPhase_only _ i _)))).mono
          (by simp [reporting])
      refine hgo hc (fun _ h => h) ?_
      rw [seat_flushing_open_head hp hv]
      exact .of_open rfl (by simp [hp]) (by simp)
    | false =>
      obtain ⟨hh, -, -, hc⟩ := seating_then_head (seat_flushing_closed hp hv)
      exact hgo hc (by simp [reporting]) (by rw [hh]; exact .of_open rfl (by simp [hp]) (by simp))
  | _ =>
    unfold State.seat
    rw [hp]
    exact .refl s

theorem torqueStart_cycles (s : State) (i : LocalHead) : KeepsCycles s (s.torqueStart i) := by
  by_cases hp : (s.head i).phase = .pressed
  · rw [torqueStart_pressed hp]
    exact (updHead_cycles (.of_open rfl (by simp [hp]) (by simp))).trans (updSlot_cycles _ i _)
  · rw [State.torqueStart, if_neg hp]
    exact .refl s

theorem release_cycles (s : State) (i : LocalHead) : KeepsCycles s (s.release i) := by
  by_cases hp : (s.head i).phase = .torquing
  · rw [release_torquing hp]
    exact (updHead_cycles (.of_open rfl (by simp [hp]) (by simp))).trans (updSlot_cycles _ i _)
  · rw [State.release, if_neg hp]
    exact .refl s

theorem takeAngle_within {s : State} {i : LocalHead} (ho : s.owns i = true) (jp cp : BitVec 4) (e : AngleEvent) :
    SeqsWithin s (s.takeAngle i jp cp e) := by
  cases e with
  | infeed => exact infeedPass_within ho _
  | capPick => exact capPick_within s i _
  | flushStart => exact (flushStart_cycles s i).within
  | seat => exact (seat_cycles s i).within
  | torqueStart => exact (torqueStart_cycles s i).within
  | release => exact (release_cycles s i).within

theorem raiseEvent_within {s : State} {i : LocalHead} (ho : s.owns i = true) (jp cp : BitVec 4) :
    SeqsWithin s (State.raiseEvent jp cp i s) := by
  unfold State.raiseEvent
  split
  · exact takeAngle_within ho jp cp _
  · exact .refl s

end Sys2Proof.Machine
end

section
/-!
The seqs a station holds through counts, the drive link, verdicts, joins, resets and the arrival of a record, and the
statement (O57).
-/
namespace Sys2Proof.Machine

/-! ## Counts and aborts -/

theorem setTtu_cycles (s : State) (u : Ttu) : KeepsCycles s { s with ttu := u } :=
  .of_only (setTtu_only s u) (by decide) (by decide)

theorem crossing_within (s : State) (jp cp : BitVec 4) : SeqsWithin s (s.crossing jp cp) := by
  have h : ∀ t : State, SeqsWithin t ((t.eachOwned (State.raiseEvent jp cp)).recheckClaims) := fun t =>
    (SeqsWithin.eachOwned t fun _ _ ho => raiseEvent_within ho jp cp).trans (recheckClaims_cycles _).within
  unfold State.crossing
  dsimp only
  split
  · exact (setTtu_cycles s _).within.trans (h _)
  · exact h s

theorem forwardMove_within (s : State) (jp cp : BitVec 4) : SeqsWithin s (s.forwardMove jp cp) :=
  .ite (fun _ => (setTtu_cycles s _).within.trans (crossing_within _ jp cp)) fun _ => (setTtu_cycles s _).within

theorem setDir_within (s : State) (d : Direction) : SeqsWithin s (s.setDir d) :=
  (setTtu_cycles s _).within

theorem forwardCount_within (s : State) (jp cp : BitVec 4) : SeqsWithin s (s.forwardCount jp cp) :=
  .ite (fun _ => (setDir_within s _).trans (forwardMove_within _ jp cp)) fun _ => setDir_within s _

theorem correctForward_within (jp cp : BitVec 4) (n : Nat) (s : State) :
    SeqsWithin s (State.correctForward jp cp n s) := by
  induction n generalizing s with
  | zero => exact .refl s
  | succ n ih => exact (forwardMove_within s jp cp).trans (ih _)

theorem reverseCount_within (s : State) : SeqsWithin s s.reverseCount := by
  cases hr : s.ttu.referenced with
  | true =>
    have h : SeqsWithin s s.movedBack.abortAll := (setTtu_cycles s _).within.trans (abortAll_within _)
    rw [reverseCount_referenced hr]
    exact .ite (fun _ => h.trans (latch_cycles _ _).within) fun _ => h
  | false =>
    rw [reverseCount_unreferenced hr]
    exact (setDir_within s _).trans
      (KeepsCycles.of_only (beginReverse_only _ _) (by decide) (by decide)).within

theorem latch_abortAll_within (s : State) (n : Notice) : SeqsWithin s (s.latch n).abortAll :=
  (latch_cycles s n).within.trans (abortAll_within _)

theorem illegalStep_within (s : State) : SeqsWithin s s.illegalStep := by
  unfold State.illegalStep
  dsimp only
  split
  · exact (latch_abortAll_within s _).trans (setTtu_cycles _ _).within
  · exact (latch_cycles s _).within

theorem zeroMark_within (s : State) (jp cp : BitVec 4) : SeqsWithin s (s.zeroMark jp cp) :=
  .ite (fun _ => (setTtu_cycles s _).within) fun _ =>
    .ite (fun _ => (latch_abortAll_within s _).trans (setTtu_cycles _ _).within) fun _ =>
      .ite (fun _ => .refl s) fun _ =>
        .ite (fun _ => (setTtu_cycles s _).within) fun _ => correctForward_within jp cp _ s

theorem pitchTimeout_cycles (s : State) : KeepsCycles s s.pitchTimeout :=
  .ite (fun _ => (setTtu_cycles s _).trans (recheckClaims_cycles _)) fun _ => .refl s

/-- A cold stop marks heads for a purge and leaves their cycles as they are (R11). -/
theorem coldStop_cycles (s : State) : KeepsCycles s s.coldStop :=
  .ite (fun _ => (setTtu_cycles s _).trans (.eachOwned _ fun i t => updHead_cycles (.refl (t.head i)))) fun _ => .refl s

/-! ## The drive link -/

theorem countCompletion_cycles (s : State) (i : LocalHead) (c : ReplyClass) : KeepsCycles s (s.countCompletion i c) :=
  .of_head (i := i) (countCompletion_only s i c) (by simp [reporting]) (fun j hj => by simp [reporting, hj])
    (countCompletion_sameCycle s i c).goesOn

theorem applyCompletion_within {s : State} {i : LocalHead} (h : (s.head i).phase ≠ .idle) (k : DriveKind)
    (c : ReplyClass) (torque angle : Nat) : SeqsWithin s (s.applyCompletion i k c torque angle) := by
  have hm := (markJog_cycles h).within
  have hp : ((s.markJog i).head i).phase ≠ .idle := by
    rw [markJog_phase]
    exact h
  have hu : ∀ f : Head → Head, (f ((s.markJog i).head i)).bound = ((s.markJog i).head i).bound →
      (f ((s.markJog i).head i)).phase = ((s.markJog i).head i).phase →
      SeqsWithin (s.markJog i) ((s.markJog i).updHead i f) := fun f hb hf =>
    (updHead_cycles (.of_open hb hp (hf.symm ▸ hp))).within
  cases k with
  | setup => cases c with
    | success => exact hm.trans (hu _ rfl rfl)
    | failure => exact hm
    | busy => exact hm
  | start => cases c with
    | failure => exact hm.trans (hu _ rfl rfl)
    | success => exact hm
    | busy => exact hm
  | result => cases c with
    | success => exact hm.trans ((hu _ rfl rfl).trans (finish_within _ i _ _ _))
    | failure => exact hm.trans ((hu _ rfl rfl).trans (finish_within _ i _ _ _))
    | busy => exact hm.trans (updSlot_cycles _ i _).within
  | stop => exact .refl s

/-- A completion is applied to a cycle that is still open once its failure is counted (R101, R102). -/
theorem complete_within (s : State) (t : Transaction) (reply : BitVec 48) : SeqsWithin s (s.complete t reply) := by
  have hc : KeepsCycles s { s with dlc := { s.dlc with current := none } } :=
    .of_only (setCurrent_only s none) (by decide) (by decide)
  have hcc := (hc.trans (countCompletion_cycles _ t.head (judgeReply t.request.kind reply))).within
  have hp := (countCompletion_sameCycle { s with dlc := { s.dlc with current := none } } t.head
    (judgeReply t.request.kind reply)).phase
  unfold State.complete
  dsimp only
  split
  · next ha =>
    exact hcc.trans (applyCompletion_within (fun h => (completionApplies_open ha).1 (hp.symm.trans h)) _ _ _ _)
  · exact hcc

theorem transactionComplete_within (s : State) (reply : BitVec 48) : SeqsWithin s (s.transactionComplete reply) := by
  unfold State.transactionComplete
  split
  · exact .ite (fun _ => complete_within s _ reply) fun _ => .refl s
  · exact .refl s

/-! ## Verdicts and returns -/

/-- A match removes its entry, and what it teaches leaves the head's cycle as it is (R133, R140). -/
theorem matchVerdict_cycles (s : State) (i : LocalHead) (e : AwaitingEntry) (f : Finding) (depth : Nat) :
    KeepsCycles s (s.matchVerdict i e f depth) := by
  have hm : KeepsCycles s (s.matchEntry i e f) := ⟨rfl, List.Sublist.refl _, List.filter_sublist, fun _ => .refl _⟩
  have hl : ∀ (t : State) g, KeepsCycles t (t.updLearned i g) := fun t g =>
    .of_only (updLearned_only t i g) (by simp) (by simp)
  exact .ite (fun _ => hm.trans (.ite (fun _ => (hl _ _).trans (benchHead_cycles _ i _)) fun _ => hl _ _)) fun _ => hm

theorem takeVerdict_cycles (s : State) (src : Address) (p : BitVec 56) : KeepsCycles s (s.takeVerdict src p) := by
  unfold State.takeVerdict
  refine .ite (fun _ => .refl s) fun _ => .ite (fun _ => .refl s) fun _ => ?_
  split
  · exact count_cycles s _
  · refine .ite (fun _ => count_cycles s _) fun _ => ?_
    split
    · exact matchVerdict_cycles s _ _ _ _
    · exact .refl s

theorem verdictExpiry_cycles (s : State) : KeepsCycles s s.verdictExpiry := by
  have hn : ∀ t : State, KeepsCycles t t.noVerdict := fun t => .of_only (noVerdict_only t) (by decide) (by decide)
  unfold State.verdictExpiry
  split
  · exact .refl s
  · next rest hr =>
    have ht : KeepsCycles s { s with vu := { s.vu with awaiting := rest } } :=
      ⟨rfl, List.Sublist.refl _, by rw [hr]; exact List.sublist_cons_self _ _, fun _ => .refl _⟩
    refine .ite (fun _ => ?_) fun _ => .refl s
    dsimp only
    split
    · exact ht.trans ((KeepsCycles.of_only (updCounters_only _ _ _) (by simp) (by simp)).trans (hn _))
    · exact ht.trans (hn _)

/-- A return ends a head's bench and leaves its cycle as it is (R143). -/
theorem returnHead_cycles (s : State) (b : Bool) (i : LocalHead) : KeepsCycles s (s.returnHead b i) :=
  .ite (fun _ => handIn_cycles s _) fun _ =>
    (updHead_cycles (.refl (s.head i))).trans
      ((KeepsCycles.of_only (updLearned_only _ i _) (by simp) (by simp)).trans (handIn_cycles _ _))

theorem takeReturn_cycles (s : State) (src : Address) (p : BitVec 16) : KeepsCycles s (s.takeReturn src p) := by
  unfold State.takeReturn
  refine .ite (fun _ => .refl s) fun _ => .ite (fun _ => .eachOwned s fun i t => returnHead_cycles t _ i) fun _ => ?_
  split
  · exact returnHead_cycles s _ _
  · exact .refl s

/-! ## LINE_CLEAR and the join -/

theorem takeLineClear_cycles (s : State) (src : Address) (p : BitVec 16) : KeepsCycles s (s.takeLineClear src p) := by
  have he : KeepsCycles s s.emptied := ⟨rfl, List.nil_sublist _, List.nil_sublist _, fun _ => .refl _⟩
  have hn : ∀ t : State, KeepsCycles t (t.clearNotices 0xFFFF) := fun t =>
    .of_only (clearNotices_only t _) (by decide) (by decide)
  have hc : ∀ t : State, KeepsCycles t t.clearCounts := fun t =>
    (count_cycles t fun _ => .zero).trans
      (.eachOwned _ fun i u => .of_only (updCounters_only u i _) (by simp) (by simp))
  have ht : ∀ t : State, KeepsCycles t (t.eachOwned State.clearTrim) := fun t => .eachOwned t fun i u =>
    .of_only (updLearned_only u i _) (by simp) (by simp)
  have h := he.trans (hn _)
  unfold State.takeLineClear State.lineClear
  refine .ite (fun _ => ?_) fun _ => .refl s
  dsimp only
  cases clearCounters p with
  | true => exact .ite (fun _ => (h.trans (hc _)).trans (ht _)) fun _ => h.trans (hc _)
  | false => exact .ite (fun _ => h.trans (ht _)) fun _ => h

/-- A station that leaves JOINING holds no record and no entry (R46, R125). -/
theorem tryJoin_cycles (s : State) : KeepsCycles s s.tryJoin := by
  have hj : KeepsCycles s s.joinedState := ⟨rfl, List.nil_sublist _, List.nil_sublist _, fun _ => .refl _⟩
  exact .ite (fun _ => hj.trans (.of_only ((changeMask_only _ _).comp (sendJoin_only _)) (by decide) (by decide)))
    fun _ => .refl s

theorem joinWindowPass_cycles (s : State) : KeepsCycles s s.joinWindowPass :=
  .ite (fun _ => (KeepsCycles.of_only (setWindow_only s _) (by decide) (by decide)).trans (tryJoin_cycles _))
    fun _ => .refl s

theorem enterRoster_cycles (s : State) (src : Address) (r : Role) (p : BitVec 24) :
    KeepsCycles s (s.enterRoster src r p) := by
  have hr := KeepsCycles.of_only (setRoster_only s (writeRoster (s.heardEntry src r p) s.sc.roster)) (by decide)
    (by decide)
  have hl : ∀ (t : State) (b : Bool), KeepsCycles t (if b then t.latch .headMapConflict else t) :=
    fun t _ => .ite (fun _ => latch_cycles t _) fun _ => .refl t
  have hj : ∀ (t : State) (b : Bool), KeepsCycles t (if b then t.sendJoin else t) :=
    fun t _ => .ite (fun _ => handIn_cycles t _) fun _ => .refl t
  have hv := fun b c => hr.trans ((hl _ b).trans (hj _ c))
  exact .ite (fun _ => (hv _ _).trans (tryJoin_cycles _)) fun _ => hv _ _

theorem takeJoin_cycles (s : State) (src : Address) (p : BitVec 24) : KeepsCycles s (s.takeJoin src p) := by
  unfold State.takeJoin
  refine .ite (fun _ => .refl s) fun _ => ?_
  split
  · exact .ite (fun _ => enterRoster_cycles s src _ p) fun _ => .refl s
  · exact .refl s

theorem takeSetup_cycles (s : State) (src : Address) (p : BitVec 64) : KeepsCycles s (s.takeSetup src p) := by
  unfold State.takeSetup
  refine .ite (fun _ => .refl s) fun _ => .ite (fun _ => latch_cycles s _) fun _ => ?_
  split
  · exact .refl s
  · exact (KeepsCycles.of_only ((setSetupParts_only s _).comp (latchInvalid_only _ _)) (by decide) (by decide)).trans
      (tryJoin_cycles _)

theorem takeProfile_cycles (s : State) (src : Address) (p : BitVec 64) : KeepsCycles s (s.takeProfile src p) := by
  unfold State.takeProfile
  refine .ite (fun _ => .refl s) fun _ => .ite (fun _ => latch_cycles s _) fun _ => .ite (fun _ => .refl s) fun _ => ?_
  dsimp only
  split
  · exact .refl s
  · exact (KeepsCycles.of_only ((setProfiles_only s _).comp (latchInvalid_only _ _)) (by decide) (by decide)).trans
      (tryJoin_cycles _)

/-! ## Resets -/

theorem cut_timesBound (h : Head) (q : Nat) : h.cut.timesBound q = 0 :=
  rfl

theorem timesBound_of_cut {s : State} (h : ∀ i, ∃ h₀ : Head, s.head i = h₀.cut) (q : Nat) : s.timesBound q = 0 := by
  have h0 : ∀ i, (s.head i).timesBound q = 0 := fun i => by
    obtain ⟨h₀, hc⟩ := h i
    rw [hc, cut_timesBound]
  simp [State.timesBound, h0]

/-- Where every head is cut and no record and no entry comes in, the law is kept, whatever the straps say. -/
theorem heldOnce_of_cut {s t : State} (hs : s.seqsHeldOnce) (h : ∀ i, ∃ h₀ : Head, t.head i = h₀.cut)
    (hr : t.rq.Sublist s.rq) (ha : t.vu.awaiting.Sublist s.vu.awaiting) : t.seqsHeldOnce := by
  rw [seqsHeldOnce_iff] at hs ⊢
  refine ⟨(headsLaw_of_cut h).1, fun q => ?_⟩
  have hs' := hs.2 q
  have hr' : t.timesQueued q ≤ s.timesQueued q := (hr.map _).count_le q
  have ha' : t.timesAwaiting q ≤ s.timesAwaiting q := (ha.map _).count_le q
  rw [count_seqsHeld] at hs' ⊢
  rw [timesBound_of_cut h]
  omega

theorem supplyLow_heldOnce {s : State} (hs : s.seqsHeldOnce) : s.supplyLow.seqsHeldOnce :=
  heldOnce_of_cut hs (fun i => ⟨s.head i, beginReset_head s i⟩) (List.Sublist.refl _) (List.Sublist.refl _)

theorem resetPin_heldOnce {s : State} (hs : s.seqsHeldOnce) : s.resetPin.seqsHeldOnce :=
  heldOnce_of_cut hs (fun i => ⟨s.head i, beginReset_head s i⟩) (List.Sublist.refl _) (List.Sublist.refl _)

theorem resetEnd_heldOnce {s : State} (hs : s.seqsHeldOnce) (straps : Straps) : (s.resetEnd straps).seqsHeldOnce := by
  unfold State.resetEnd
  split
  · exact hs
  · split
    · exact heldOnce_of_cut hs (fun i => ⟨.atPowerOn, PerHead.get_all _ i⟩) (List.nil_sublist _) (List.nil_sublist _)
    · exact heldOnce_of_cut hs
        (fun i => ⟨(s.head i).afterPin, (PerHead.get_map s.heads Head.afterPin i).trans (afterPin_cut _)⟩)
        (List.nil_sublist _) (List.nil_sublist _)

/-! ## The arrival of a record -/

/-- Where idle heads are empty, a seq that R34 finds free stands nowhere in the station. -/
theorem count_seqsHeld_of_free {s : State} (hs : s.idleHeadsEmpty) {q : Nat} (h : ¬ s.holds q) :
    s.seqsHeld.count q = 0 := by
  refine List.count_eq_zero.2 fun hm => h ?_
  simp only [State.seqsHeld, List.mem_append, List.mem_map, List.mem_filterMap, Option.map_eq_some_iff] at hm
  rcases hm with (hr | ⟨i, -, r, hb, hq⟩) | he
  · exact Or.inl hr
  · have hp : (s.head i).phase ≠ .idle := fun hp => by simp [((hs i).2 hp).1] at hb
    have ho : s.owns i = true := by
      by_contra hn
      exact hp ((hs i).1 (Bool.eq_false_iff.2 hn))
    exact Or.inr (Or.inl ⟨i, ho, hp, r, hb, hq⟩)
  · exact Or.inr (Or.inr he)

/-- A record appended under a seq that stands nowhere and is not 65535 keeps the law. -/
theorem append_heldOnce {s : State} (hs : s.seqsHeldOnce) {r : JarRecord} (hq : r.seq ≠ Config.noSeq)
    (hf : s.seqsHeld.count r.seq = 0) : State.seqsHeldOnce { s with rq := s.rq ++ [r] } := by
  rw [seqsHeldOnce_iff] at hs ⊢
  refine ⟨hs.1, fun q => ?_⟩
  have hadd : State.timesQueued { s with rq := s.rq ++ [r] } q = s.timesQueued q + if r.seq = q then 1 else 0 := by
    simp [State.timesQueued, List.count_singleton]
  have hb : State.timesBound { s with rq := s.rq ++ [r] } q = s.timesBound q := rfl
  have ha : State.timesAwaiting { s with rq := s.rq ++ [r] } q = s.timesAwaiting q := rfl
  have hc : (State.seqsHeld { s with rq := s.rq ++ [r] }).count q
      = s.seqsHeld.count q + if r.seq = q then 1 else 0 := by
    rw [count_seqsHeld, count_seqsHeld, hadd, hb, ha]
    omega
  rw [hc]
  by_cases hrq : r.seq = q
  · subst hrq
    rw [hf, if_pos rfl, seqLimit, if_neg hq]
  · rw [if_neg hrq]
    exact hs.2 q

theorem overrun_cycles (s : State) : KeepsCycles s s.overrun := by
  have hd : KeepsCycles s { s with rq := s.rq.drop 1 } :=
    ⟨rfl, List.drop_sublist 1 _, List.Sublist.refl _, fun _ => .refl _⟩
  exact hd.trans ((count_cycles _ _).trans (latch_cycles _ _))

/-- A record appended under a free seq, behind an overrun where the queue is full (R34, R38). -/
theorem appendRecord_heldOnce {s : State} (hs : s.seqsHeldOnce) {r : JarRecord} (hq : r.seq ≠ Config.noSeq)
    (hf : ¬ s.holds r.seq) : (s.appendRecord r).seqsHeldOnce := by
  have hfree := count_seqsHeld_of_free hs.1 hf
  rcases Nat.lt_or_ge s.rq.length 32 with h | h
  · rw [appendRecord_room h]
    exact append_heldOnce hs hq hfree
  · have ho := (overrun_cycles s).within
    rw [appendRecord_full h]
    exact append_heldOnce (ho.heldOnce hs) hq (Nat.le_zero.1 ((ho.held r.seq).trans (Nat.le_of_eq hfree)))

theorem takeRecord_heldOnce {s : State} (hs : s.seqsHeldOnce) (src : Address) (p : BitVec 64) :
    (s.takeRecord src p).seqsHeldOnce := by
  have hc : ∀ f, (s.count f).seqsHeldOnce := fun f => (count_cycles s f).within.heldOnce hs
  unfold State.takeRecord State.queueRecord
  split
  · exact hs
  · split
    · exact hc _
    · next hbad =>
      split
      · exact hs
      · split
        · exact hc _
        · split
          · exact hc _
          · next hheld =>
            exact appendRecord_heldOnce hs (fun hq => hbad (Or.inl hq)) (mt (seqHeld_iff s _).2 hheld)

/-! ## Every step -/

theorem heldOnce_of_only {ps : List Piece} {s t : State} (hs : s.seqsHeldOnce) (h : ChangesOnly ps s t)
    (hd : ∀ p ∈ [Piece.records, .awaiting, .resetting], p ∉ ps) (hh : ∀ j, .head j ∉ ps) : t.seqsHeldOnce :=
  (KeepsCycles.of_only h hd hh).within.heldOnce hs

theorem fire_within (e : TimedEvent) (s : State) : SeqsWithin s (e.fire s) := by
  have honly : ∀ {ps : List Piece} {t : State}, ChangesOnly ps s t →
      (∀ p ∈ [Piece.records, .awaiting, .resetting], p ∉ ps) → (∀ j, .head j ∉ ps) → SeqsWithin s t :=
    fun h hd hh => (KeepsCycles.of_only h hd hh).within
  cases e with
  | pitchTimeout => exact (pitchTimeout_cycles s).within
  | coldStop => exact (coldStop_cycles s).within
  | valveClose i => exact (valveCloseTime_cycles s i).within
  | claimRetry i => exact (claimRetry_cycles s i).within
  | drawExpiry src g => exact honly (drawEntryExpiry_only s src g) (by decide) (by decide)
  | holdExpiry => exact honly (holdExpiry_only s) (by decide) (by decide)
  | holdRenewal => exact honly (holdRenewal_only s) (by decide) (by decide)
  | stloSample => exact honly (stloSample_only s) (by decide) (by decide)
  | silence => exact honly (silenceThreshold_only s) (by decide) (by decide)
  | relistenEnd => exact honly (relistenEnd_only s) (by decide) (by decide)
  | transactionEnd => exact transactionComplete_within s _
  | driveGrant => exact honly (driveGrant_only s) (by decide) (by decide)
  | resultWait i => exact honly (resultWaitExpiry_only s i) (by simp) (by simp)
  | verdictExpiry => exact (verdictExpiry_cycles s).within
  | joinTimer => exact honly (joinTimer_only s) (by decide) (by decide)
  | joinWindow => exact (joinWindowPass_cycles s).within

theorem ifJoined_heldOnce {s : State} {f : State → State} (hs : s.seqsHeldOnce) (hf : SeqsWithin s (f s)) :
    (s.ifJoined f).seqsHeldOnce := by
  unfold State.ifJoined
  split
  · exact hf.heldOnce hs
  · exact hs

theorem heard_heldOnce {s : State} (hs : s.seqsHeldOnce) (src : Address) :
    (s.frameEnd.heardOther src).seqsHeldOnce :=
  heldOnce_of_only hs ((frameEnd_only s).comp (heardOther_only s.frameEnd src)) (by decide) (by decide)

theorem completed_heldOnce {s : State} (hs : s.seqsHeldOnce) : s.completed.seqsHeldOnce :=
  heldOnce_of_only hs (completed_only s) (by decide) (by decide)

/-- The reception of a frame whose owner keeps the cycles. -/
theorem receive_heldOnce {s : State} (src : Address) (owner : State → State) (hs : s.seqsHeldOnce)
    (ho : ∀ t, KeepsCycles t (owner t)) : (s.receive src owner).seqsHeldOnce :=
  receive_keeps hs (fun h => heard_heldOnce h src) fun t ht => (ho t).within.heldOnce ht

/-- The reception of a frame whose owner changes no head, no record and no entry. -/
theorem receive_heldOnce_of_only {ps : List Piece} {s : State} (src : Address) (owner : State → State)
    (hs : s.seqsHeldOnce) (ho : ∀ t, ChangesOnly ps t (owner t))
    (hd : ∀ p ∈ [Piece.records, .awaiting, .resetting], p ∉ ps) (hh : ∀ j, .head j ∉ ps) :
    (s.receive src owner).seqsHeldOnce :=
  receive_heldOnce src owner hs fun t => .of_only (ho t) hd hh

theorem commandEffect_heldOnce (c : Instr) {s : State} (hs : s.seqsHeldOnce) : (commandEffect c s).seqsHeldOnce := by
  have hheard := fun src (h : s.seqsHeldOnce) => heard_heldOnce h src
  cases c with
  | forwardCount dt jp cp => exact ifJoined_heldOnce hs (forwardCount_within s jp cp)
  | reverseCount dt => exact ifJoined_heldOnce hs (reverseCount_within s)
  | illegalQuadratureStep dt => exact ifJoined_heldOnce hs (illegalStep_within s)
  | zeroMark dt jp cp => exact ifJoined_heldOnce hs (zeroMark_within s jp cp)
  | pitchTimeout dt => exact (pitchTimeout_cycles s).within.heldOnce hs
  | coldStop dt => exact (coldStop_cycles s).within.heldOnce hs
  | valveCloseTime dt i => exact (valveCloseTime_cycles s i).within.heldOnce hs
  | jarRecord dt src p =>
    exact receive_keeps (owner := fun u => u.takeRecord src p) hs (hheard src) fun _ ht => takeRecord_heldOnce ht src p
  | drawClaim dt src p =>
    exact receiveOr_keeps hs (hheard src) completed_heldOnce (fun t ht => (claimEcho_cycles t p).within.heldOnce ht)
      fun t ht => heldOnce_of_only ht (peerClaim_only t src p) (by decide) (by decide)
  | drawEnd dt src p =>
    exact receiveOr_keeps (echo := fun t => t.drawEndEcho p.toNat) hs (hheard src) completed_heldOnce
      (fun t ht => heldOnce_of_only ht (drawEndEcho_only t p.toNat) (by decide) (by decide))
      fun t ht => heldOnce_of_only ht (peerDrawEnd_only t src p.toNat) (by decide) (by decide)
  | steamHold dt src p =>
    exact receiveOr_keeps hs (hheard src) completed_heldOnce
      (fun t ht => heldOnce_of_only ht (takeHold_only t .own p.toNat) (by decide) (by decide))
      fun t ht => heldOnce_of_only ht (takeHold_only t .peer p.toNat) (by decide) (by decide)
  | claimRetry dt i => exact (claimRetry_cycles s i).within.heldOnce hs
  | drawEntryExpiry dt src head => exact heldOnce_of_only hs (drawEntryExpiry_only s src head) (by decide) (by decide)
  | holdExpiry dt => exact heldOnce_of_only hs (holdExpiry_only s) (by decide) (by decide)
  | holdRenewal dt => exact heldOnce_of_only hs (holdRenewal_only s) (by decide) (by decide)
  | stloFall r => exact heldOnce_of_only hs (stloFall_only s r.held) (by decide) (by decide)
  | stloRise r => exact heldOnce_of_only hs (stloRise_only s r.held) (by decide) (by decide)
  | silenceThreshold dt => exact heldOnce_of_only hs (silenceThreshold_only s) (by decide) (by decide)
  | relistenEnd dt => exact heldOnce_of_only hs (relistenEnd_only s) (by decide) (by decide)
  | driveGrant dt => exact heldOnce_of_only hs (driveGrant_only s) (by decide) (by decide)
  | driveTransactionComplete dt reply => exact (transactionComplete_within s reply).heldOnce hs
  | resultWaitExpiry dt i => exact heldOnce_of_only hs (resultWaitExpiry_only s i) (by simp) (by simp)
  | verdict dt src p => exact receive_heldOnce src (fun u => u.takeVerdict src p) hs (takeVerdict_cycles · src p)
  | verdictExpiry dt => exact (verdictExpiry_cycles s).within.heldOnce hs
  | headReturn dt src p => exact receive_heldOnce src (fun u => u.takeReturn src p) hs (takeReturn_cycles · src p)
  | lineMode dt src p =>
    exact receive_heldOnce_of_only src (fun u => u.takeLineMode src p) hs (takeLineMode_only · src p) (by decide)
      (by decide)
  | lineClear dt src p => exact receive_heldOnce src (fun u => u.takeLineClear src p) hs (takeLineClear_cycles · src p)
  | join dt src p =>
    exact receiveOr_keeps hs (hheard src) completed_heldOnce
      (fun t ht => heldOnce_of_only ht (joinEcho_only t) (by decide) (by decide))
      fun t ht => (takeJoin_cycles t src p).within.heldOnce ht
  | joinTimer dt => exact heldOnce_of_only hs (joinTimer_only s) (by decide) (by decide)
  | joinWindowPass dt => exact (joinWindowPass_cycles s).within.heldOnce hs
  | setup dt src p => exact receive_heldOnce src (fun u => u.takeSetup src p) hs (takeSetup_cycles · src p)
  | profile dt src p => exact receive_heldOnce src (fun u => u.takeProfile src p) hs (takeProfile_cycles · src p)
  | noticeClear dt src p =>
    exact receive_heldOnce_of_only src (fun u => u.takeNoticeClear src p) hs (takeNoticeClear_only · src p) (by decide)
      (by decide)
  | noticeMaskSet dt src p =>
    exact receive_heldOnce_of_only src (fun u => u.takeMaskSet src p) hs (takeMaskSet_only · src p) (by decide) (by decide)
  | noticeMaskClear dt src p =>
    exact receive_heldOnce_of_only src (fun u => u.takeMaskClear src p) hs (takeMaskClear_only · src p) (by decide)
      (by decide)
  | counterRequest dt src p =>
    exact receive_heldOnce_of_only src (fun u => u.takeRequest src p) hs (takeRequest_only · src p) (by decide) (by decide)
  | frameContentionStart dt => exact heldOnce_of_only hs (contentionStart_only s) (by decide) (by decide)
  | lostContention r => exact heldOnce_of_only hs (lostContention_only s r.bit r.level) (by decide) (by decide)
  | transmitError r => exact heldOnce_of_only hs (transmitError_only s r.bit r.level) (by decide) (by decide)
  | badFrameReceived dt r => exact heldOnce_of_only hs (badReceived_only s r) (by decide) (by decide)
  | unownedFrame dt src kind payload =>
    exact heldOnce_of_only hs (receiveUnowned_only s src kind.toNat payload) (by decide) (by decide)
  | busIdleSeen dt => exact heldOnce_of_only hs (busIdleSeen_only s) (by decide) (by decide)
  | supplyLow dt => exact supplyLow_heldOnce hs
  | resetPin dt => exact resetPin_heldOnce hs
  | resetEnd dt addr hcPins fh => exact resetEnd_heldOnce hs _
  | startBit dt => exact heldOnce_of_only hs (startBit_only s) (by decide) (by decide)
  | contentionWon dt => exact heldOnce_of_only hs (contentionWon_only s) (by decide) (by decide)
  | joinEcho dt => exact heldOnce_of_only hs (receiveJoinEcho_only s) (by decide) (by decide)

/-- Settles O57: a seq comes in with a record alone, which finds it free, and the clock, every timed row and every command's
effect keep the law. -/
theorem sequenceNumbersAreHeldOnce : Obligations.SequenceNumbersAreHeldOnce :=
  keptByStep_of_effects (P := State.seqsHeldOnce) (fun _ _ h => h) (fun _ _ _ h => h)
    (fun e s h => (fire_within e s).heldOnce h) fun c _ _ h => commandEffect_heldOnce c h

end Sys2Proof.Machine
end

section
/-!
The Dwell Calculator, stage by stage (O20): which flags a call sets, the headspace, the two terms, the clamp, and the
counts that a head has left to its seat.
-/
namespace Sys2Proof.Machine

/-! ## Jar flags -/

/-- Different flags have different bits (12, flag table). -/
theorem flag_bit_inj {f g : JarFlag} : f.bit = g.bit ↔ f = g := by
  refine ⟨fun h => ?_, congrArg _⟩
  have ofBit : ∀ f : JarFlag, [JarFlag.recordMissing, .recordRange, .overfill, .headspaceHigh, .dwellClamped, .purgeAdded,
      .shortFlush, .noFlush, .noCap, .driveLate, .driveFault, .underTorque, .overTorque, .crossThread, .jog,
      .aborted][f.bit]? = some f := by
    intro f
    cases f <;> rfl
  exact Option.some.inj ((ofBit f).symm.trans (h ▸ ofBit g))

theorem flag_bit_lt (f : JarFlag) : f.bit < 16 := by
  cases f <;> decide

/-- A jar carries the flag that was set and those it carried before (R114). -/
theorem hasFlag_setFlag (w : Word) (g f : JarFlag) : hasFlag (setFlag w g) f = (hasFlag w f || decide (g = f)) := by
  have hbit : (oneBit g.bit).getLsbD f.bit = (decide (g.bit < 16) && decide (g.bit = f.bit)) :=
    BitVec.getLsbD_twoPow g.bit f.bit
  rw [hasFlag, setFlag, BitVec.getLsbD_or, hbit, decide_eq_true (flag_bit_lt g), Bool.true_and]
  simp only [flag_bit_inj, hasFlag]

theorem hasFlag_setFlagIf (c : Bool) (w : Word) (g f : JarFlag) :
    hasFlag (setFlagIf c w g) f = true ↔ hasFlag w f = true ∨ c = true ∧ f = g := by
  cases c <;> simp [setFlagIf, hasFlag_setFlag, @eq_comm _ f g]

/-! ## The infeed call -/

theorem headspace_eq (p : DwellProfile) (i : DwellInput) :
    headspace p i = if i.recordMissing then 0 else min 600 (p.Vb - i.mass * 1000 / p.rho) := by
  unfold headspace rawHeadspace fillVolume
  split
  · rfl
  · exact Nat.min_comm _ _

/-- No temperature term for a jar filled at the reference temperature or above it (R53). -/
theorem temperatureTerm_eq (p : DwellProfile) (i : DwellInput) :
    temperatureTerm p i = if i.temp < p.Tref then (p.Tref - i.temp) * p.Kt / 32 else 0 := by
  unfold temperatureTerm
  split
  · rfl
  · next h => rw [Nat.sub_eq_zero_of_le (Nat.le_of_not_lt h), Nat.zero_mul, Nat.zero_div]

/-- The clamp limits are not negative, so neither is the clamped dwell (R55). -/
theorem clampedDwell_eq {p : DwellProfile} (h : p.Dmin ≤ p.Dmax) (i : DwellInput) :
    (clampedDwell p i : Int) = clamp p.Dmin p.Dmax (rawDwell p i) := by
  have hlow := (clamp_between (Int.ofNat_le.2 h) (rawDwell p i)).1
  exact Int.toNat_of_nonneg (by omega)

/-- A flag comes from its stage of the call, and from nothing else. -/
theorem hasFlag_dwellFlags (p : DwellProfile) (i : DwellInput) (f : JarFlag) :
    hasFlag (dwellFlags p i) f = true ↔
      i.recordMissing = false ∧ p.Vb ≤ fillVolume i.mass p.rho ∧ f = .overfill
      ∨ 600 < rawHeadspace p i ∧ f = .headspaceHigh
      ∨ i.purgePending = true ∧ f = .purgeAdded
      ∨ clamp p.Dmin p.Dmax (rawDwell p i) ≠ rawDwell p i ∧ f = .dwellClamped
      ∨ flushWindow i < clampedDwell p i ∧ f = .shortFlush := by
  have hnone : hasFlag 0 f = false := BitVec.getLsbD_zero
  simp only [dwellFlags, hasFlag_setFlagIf, hnone, Bool.false_eq_true, false_or, or_assoc, Bool.and_eq_true,
    Bool.not_eq_true', decide_eq_true_eq, and_assoc]

theorem rawHeadspace_high_iff (p : DwellProfile) (i : DwellInput) :
    600 < rawHeadspace p i ↔ i.recordMissing = false ∧ 600 < p.Vb - fillVolume i.mass p.rho := by
  unfold rawHeadspace
  cases i.recordMissing <;> simp

/-- The raw dwell of R49 to R54, written out. -/
theorem rawDwell_eq (p : DwellProfile) (i : DwellInput) :
    rawDwell p i =
      let h := if i.recordMissing then 0 else min 600 (p.Vb - i.mass * 1000 / p.rho)
      let dh := h * p.Kh / 64
      let dtemp := if i.temp < p.Tref then (p.Tref - i.temp) * p.Kt / 32 else 0
      p.B + dh + dtemp + i.trim + (if i.purgePending then (p.Pext : Int) else 0) := by
  rw [rawDwell, headspaceTerm, headspace_eq, temperatureTerm_eq]

/-- The dwell returned is the clamped raw dwell, cut to the window (R55, R58). -/
theorem infeedCall_dwell {p : DwellProfile} (h : p.Dmin ≤ p.Dmax) (i : DwellInput) :
    ((infeedCall p i).dwell : Int) = min (clamp p.Dmin p.Dmax (rawDwell p i)) (flushWindow i : Int) := by
  rw [← clampedDwell_eq h]
  exact Nat.cast_min _ _

/-- The clamped dwell passes the window exactly where the cut takes something away (R58). -/
theorem flushWindow_lt_clampedDwell_iff {p : DwellProfile} (h : p.Dmin ≤ p.Dmax) (i : DwellInput) :
    flushWindow i < clampedDwell p i ↔ (flushWindow i : Int) < clamp p.Dmin p.Dmax (rawDwell p i) := by
  rw [← clampedDwell_eq h]
  exact Int.ofNat_lt.symm

/-! ## The claim call -/

/-- The counts a head has left to its seat, taken round the turret (R59). -/
theorem remaining_eq_travelTime {s : State} (h : s.setupStatus = .valid) (i : LocalHead) :
    s.remaining i =
      let k : Int := (((s.fh + i.val) * s.pc + s.setup.aS : Nat) - ((s.ttu.x + s.ttu.lag : Nat) : Int)) % (s.setup.E : Int)
      travelTime k.toNat s.ttu.tPitch s.pc := by
  rw [← countsTo_eq_emod (E_pos_of_valid h)]
  rfl

/-- Settles O20: each stage of the infeed call is its formula and sets its own flag, and the remaining time is taken over
the counts to the seat. -/
theorem dwellArithmetic : Obligations.DwellArithmetic := by
  refine ⟨fun p i hp => ?_, fun s i hs => remaining_eq_travelTime hs i, fun d Dmin R => rfl⟩
  intro v h dh dtemp raw d w r
  have hraw : rawDwell p i = raw := rawDwell_eq p i
  have hd : clamp p.Dmin p.Dmax (rawDwell p i) = d :=
    (clamp_eq_max_min (Int.ofNat_le.2 hp) _).trans (by rw [hraw])
  have hflag := hasFlag_dwellFlags p i
  refine ⟨rfl, (infeedCall_dwell hp i).trans (by rw [hd]; rfl), ?overfill, ?headspaceHigh, ?purgeAdded, ?dwellClamped,
    ?shortFlush, ?others⟩
  case overfill => exact (hflag .overfill).trans (by simp [v, fillVolume])
  case headspaceHigh => exact (hflag .headspaceHigh).trans (by simp [v, rawHeadspace_high_iff, fillVolume])
  case purgeAdded => exact (hflag .purgeAdded).trans (by simp)
  case dwellClamped => exact (hflag .dwellClamped).trans (by rw [hd, hraw]; simp)
  case shortFlush =>
    exact ((hflag .shortFlush).trans (by simp)).trans ((flushWindow_lt_clampedDwell_iff hp i).trans (by rw [hd]; rfl))
  case others =>
    intro f hf
    rw [Bool.eq_false_iff]
    intro hset
    rcases (hflag f).1 hset with ⟨_, _, rfl⟩ | ⟨_, rfl⟩ | ⟨_, rfl⟩ | ⟨_, rfl⟩ | ⟨_, rfl⟩ <;> simp at hf

end Sys2Proof.Machine
end


section
/-!
Why the laws of R77, as the statement holds them, are not kept by every step (O58): none of them says that no valve is
open while a reset runs, and no timer runs in a reset, so the valve-close time goes by.
-/
namespace Sys2Proof.Machine

/-- No timer runs during a reset, so the passing of time moves the clock and nothing else (log 7). -/
theorem elapse_inReset_eq {s : State} (h : s.sc.inReset = true) (dt : Nat) :
    s.elapse dt = { s with now := s.now + dt } := by
  have ht : earliest s.timers = none := by
    simp [State.timers, h, earliest]
  unfold State.elapse
  split
  · next h0 =>
    subst h0
    rfl
  · rw [State.passTo, ht]
    rfl

/-- A station in RUNNING at the valve-close time of its head 0: the flush of 300 ms was admitted at time 0, its entry ends
20 ms later, and nothing of it is in the transmit queue. A reset runs, which every valve should have closed at (R26). -/
def openInReset : State :=
  let s := State.atPowerOn 300000 { addr := 0, hcPins := 0, fhPins := 0 }
  { s with
    heads := s.heads.set 0 { Head.atPowerOn with phase := .flushing, valveOpen := true, valveCloseAt := 300000 }
    sdu := { s.sdu with table := [{ src := 0, head := 0, units := 2, endAt := 320000 }] }
    sc := { s.sc with
      mode := .running, inReset := true,
      setupParts := {
        s0 := some { P := 8, E := 128, O := 3, C := 4, Hq := 40 }, s1 := some { aC := 3, aFs := 9, aS := 27 },
        s2 := some { aT := 30, aR := 42, Lmax := 6 }, s3 := some { Tcold := 1, Lv := 1, mask := 0 } } } }

theorem openInReset_lists : openInReset.withinSizes ∧ openInReset.queueInOrder := by
  unfold State.withinSizes State.queueInOrder
  decide

theorem openInReset_heads : openInReset.idleHeadsEmpty ∧ openInReset.valvesOnlyInFlush ∧ openInReset.drawsWithinHeader := by
  unfold State.idleHeadsEmpty State.valvesOnlyInFlush State.drawsWithinHeader
  decide

/-- With no frame waiting or in flight there is nothing for the claims and the DRAW_ENDs to disagree with. -/
theorem framesAgree_of_noFrames {s : State} (hq : s.lbi.queue = []) (hf : s.lbi.inFlight = none) :
    s.claimFramesAgree ∧ s.drawEndsGoFirst ∧ s.noDrawEndBehind := by
  simp [State.claimFramesAgree, State.drawEndsGoFirst, State.noDrawEndBehind, State.drawEndPending, hq, hf]

theorem openInReset_frames :
    openInReset.claimFramesAgree ∧ openInReset.drawEndsGoFirst ∧ openInReset.noDrawEndBehind :=
  framesAgree_of_noFrames rfl rfl

theorem openInReset_valvesDrawn : openInReset.valvesDrawn := by
  unfold State.valvesDrawn State.drawEndPending
  decide

theorem openInReset_steamLawful : openInReset.steamLawful :=
  ⟨openInReset_lists.1, openInReset_lists.2, openInReset_heads.1, openInReset_heads.2.1, openInReset_heads.2.2,
    openInReset_frames.1, openInReset_frames.2.1, openInReset_valvesDrawn⟩

/-- One µs later the valve still stands open, past its valve-close time. -/
theorem openInReset_step : step openInReset = .next { openInReset with now := 300001 } :=
  congrArg Host.Outcome.next (elapse_inReset_eq (s := openInReset) rfl 1)

theorem not_valvesDrawn_openInReset_later : ¬ ({ openInReset with now := 300001 } : State).valvesDrawn := fun h =>
  absurd (h 0 rfl).1 (by decide)

/-- Refutes O58 in its second part: in `openInReset` all the laws hold and no DRAW_END is on its way, and the next step
leaves a valve open past its valve-close time. The state is out of reach, since both resets begin by closing every
valve. -/
theorem not_ownDrawsStayWithinTheHeader : ¬ Obligations.OwnDrawsStayWithinTheHeader := by
  unfold Obligations.OwnDrawsStayWithinTheHeader
  rintro ⟨-, hkept, -⟩
  obtain ⟨-, -, -, -, -, -, -, hdrawn⟩ :=
    hkept _ _ openInReset_steamLawful openInReset_frames.2.2 openInReset_step
  exact not_valvesDrawn_openInReset_later hdrawn

end Sys2Proof.Machine
end


section
/-!
The draw table, the Record Queue and the awaiting-verdict table stay legal (O59): what keeps the keys of the entries, the
owners and values of the records and the order of the capped times in the shared operations and at the angle events.
-/
namespace Sys2Proof.Machine

/-! ## The law -/

/-- The law of this file: what the statement says of the three lists. -/
structure State.TablesLegal (s : State) : Prop where
  keys : s.tableKeysOnce
  records : s.recordsOwned
  awaiting : s.awaitingInOrder

/-- From `s` to `t` the law is kept. -/
def KeepsTables (s t : State) : Prop :=
  s.TablesLegal → t.TablesLegal

theorem KeepsTables.refl (s : State) : KeepsTables s s :=
  id

theorem KeepsTables.trans {s t u : State} (h₁ : KeepsTables s t) (h₂ : KeepsTables t u) : KeepsTables s u :=
  h₂ ∘ h₁

theorem KeepsTables.ite {c : Prop} [Decidable c] {s t u : State} (h₁ : c → KeepsTables s t)
    (h₂ : ¬c → KeepsTables s u) : KeepsTables s (if c then t else u) := by
  split
  · exact h₁ ‹_›
  · exact h₂ ‹_›

theorem KeepsTables.eachOwned (s : State) {act : LocalHead → State → State} (h : ∀ i t, KeepsTables t (act i t)) :
    KeepsTables s (s.eachOwned act) :=
  fun hs => foldl_keeps (P := State.TablesLegal) hs fun i _ t => h i t

/-- The pieces that the law speaks of. -/
def tablePieces : List Piece :=
  [.now, .records, .table, .awaiting, .resetting]

theorem recordsOwned_of_straps {s t : State} (h : t.sc.straps = s.sc.straps) (hr : t.rq ⊆ s.rq)
    (hs : s.recordsOwned) : t.recordsOwned := by
  unfold State.recordsOwned State.fh State.hc at *
  rw [h]
  exact fun r hm => hs r (hr hm)

theorem KeepsTables.of_only {ps : List Piece} {s t : State} (h : ChangesOnly ps s t) (hd : ∀ p ∈ tablePieces, p ∉ ps) :
    KeepsTables s t := by
  have hk : ∀ p ∈ tablePieces, p.same s t := fun p hp => h.keeps p (hd p hp)
  have hn := hk .now (by decide)
  have hr := hk .records (by decide)
  have ht := hk .table (by decide)
  have ha := hk .awaiting (by decide)
  have hst := (hk .resetting (by decide)).2.2.2
  simp only [Piece.same] at hn hr ht ha
  rintro ⟨hkeys, hrecords, hawaiting⟩
  refine ⟨?_, recordsOwned_of_straps hst (by rw [hr]; exact List.Subset.refl _) hrecords, ?_⟩
  · unfold State.tableKeysOnce
    rw [ht]
    exact hkeys
  · unfold State.awaitingInOrder
    rw [ha, hn]
    exact hawaiting

/-! ## Updates of the three lists -/

/-- Lists that are empty are legal. -/
theorem tablesLegal_of_empty {s : State} (ht : s.sdu.table = []) (hr : s.rq = []) (ha : s.vu.awaiting = []) :
    s.TablesLegal := by
  refine ⟨?_, ?_, ?_⟩
  · simp [State.tableKeysOnce, ht]
  · simp [State.recordsOwned, hr]
  · simp [State.awaitingInOrder, ha]

/-- Entries taken out of the draw table leave the keys single (R68, R69). -/
theorem setTable_tables {s : State} {l : List DrawEntry} (hl : List.Sublist l s.sdu.table) :
    KeepsTables s { s with sdu := { s.sdu with table := l } } :=
  fun h => { h with keys := (hl.map _).nodup h.keys }

theorem setRecords_tables {s : State} {l : List JarRecord} (hl : l ⊆ s.rq) : KeepsTables s { s with rq := l } :=
  fun h => { h with records := fun r hr => h.records r (hl hr) }

theorem setAwaiting_tables {s : State} {l : List AwaitingEntry} (hl : List.Sublist l s.vu.awaiting) :
    KeepsTables s { s with vu := { s.vu with awaiting := l } } :=
  fun h => { h with awaiting := ⟨h.awaiting.1.sublist hl, fun e he => h.awaiting.2 e (hl.subset he)⟩ }

/-- A claim admitted takes the place of the entry of its station and head (R67). -/
theorem writeEntry_tables (s : State) (src : Address) (g f dwell : Nat) : KeepsTables s (s.writeEntry src g f dwell) := by
  refine fun h => { h with keys := ?_ }
  have hk : ((s.sdu.table.filter fun e => !e.isOf src g).map fun e => (e.src, e.head)).Nodup :=
    (List.filter_sublist.map _).nodup h.keys
  unfold State.tableKeysOnce State.writeEntry
  rw [List.map_append]
  refine hk.append (List.nodup_singleton _) fun k hk hs => ?_
  obtain ⟨e, he, rfl⟩ := List.mem_map.1 hk
  simp [DrawEntry.isOf] at he hs
  exact he.2.elim (· hs.1) (· hs.2)

theorem removeEntry_tables (s : State) (src : Address) (g : Nat) : KeepsTables s (s.removeEntry src g) :=
  setTable_tables List.filter_sublist

theorem takeRecords_tables (s : State) (g : Nat) : KeepsTables s (s.takeRecords g) :=
  setRecords_tables List.filter_sublist.subset

/-- A jar capped now goes behind every jar that waits (R126). -/
theorem appendAwaiting_tables {s : State} {l : List AwaitingEntry} {e : AwaitingEntry}
    (hl : List.Sublist l s.vu.awaiting) (he : e.cappedAt = s.now) :
    KeepsTables s { s with vu := { s.vu with awaiting := l ++ [e] } } := by
  intro h
  obtain ⟨ho, hn⟩ := (setAwaiting_tables hl h).awaiting
  refine { h with awaiting := ⟨List.pairwise_append.2 ⟨ho, List.pairwise_singleton _ _, fun a ha b hb => ?_⟩, fun a ha => ?_⟩ }
  · rw [List.mem_singleton.1 hb, he]
    exact hn a ha
  · rcases List.mem_append.1 ha with ha | ha
    · exact hn a ha
    · rw [List.mem_singleton.1 ha]
      exact he.le

/-! ## The end of a cycle -/

theorem latch_tables (s : State) (n : Notice) : KeepsTables s (s.latch n) :=
  .of_only (latch_only s n) (by decide)

theorem count_tables (s : State) (f : Counters → Counters) : KeepsTables s (s.count f) :=
  fun h => { h with }

theorem handOff_tables {s : State} {e : AwaitingEntry} (he : e.cappedAt = s.now) : KeepsTables s (s.handOff e) :=
  .ite (fun _ => appendAwaiting_tables (List.Sublist.refl _) he) fun _ =>
    (appendAwaiting_tables (List.drop_sublist 1 _) he).trans ((count_tables _ _).trans (latch_tables _ _))

theorem handOffJar_tables (s : State) (i : LocalHead) (o : JarOutcome) : KeepsTables s (s.handOffJar i o) :=
  .ite (fun _ => handOff_tables rfl) fun _ => .refl s

theorem finish_tables (s : State) (i : LocalHead) (o : JarOutcome) (torque angle : Nat) :
    KeepsTables s (s.finish i o torque angle) :=
  (KeepsTables.of_only (reportJar_only s i true _) (by simp [tablePieces, reporting])).trans
    ((handOffJar_tables _ i o).trans
      (.of_only ((updHead_only _ i _).comp (detachCycle_only _ i)) (by simp [tablePieces])))

theorem driveFailed_tables (s : State) (i : LocalHead) : KeepsTables s (s.driveFailed i) :=
  .of_only (driveFailed_only s i) (by simp [tablePieces, reporting])

theorem markJog_tables (s : State) (i : LocalHead) : KeepsTables s (s.markJog i) :=
  .of_only (markJog_only s i) (by simp [tablePieces])

theorem flag_tables (s : State) (i : LocalHead) (f : JarFlag) : KeepsTables s (s.flag i f) :=
  .of_only (flag_only s i f) (by simp [tablePieces])

theorem abortHead_tables (i : LocalHead) (s : State) : KeepsTables s (State.abortHead i s) := by
  by_cases h : (s.head i).phase = .idle
  · rw [abortHead_idle h]
    exact .refl s
  · rw [abortHead_open h]
    exact (KeepsTables.of_only (abortEnd_only s i) (by simp [tablePieces, reporting])).trans (finish_tables _ i _ _ _)

theorem abortAll_tables (s : State) : KeepsTables s s.abortAll :=
  .eachOwned s abortHead_tables

/-! ## Claims -/

theorem announce_tables (s : State) (i : LocalHead) (c : Claim) : KeepsTables s (s.announce i c) := by
  have hu : ∀ (t : State) (d : Claim), KeepsTables t (t.updClaim i fun _ => d) := fun t d =>
    .of_only (updClaim_only t i _) (by simp [tablePieces])
  have hr : ∀ t : State, KeepsTables t (t.reportAdmission i c.dwell c.extension) := fun t =>
    .of_only (reportAdmission_only t i _ _) (by simp [tablePieces, reporting])
  have hh : ∀ (t : State) (f : TxFrame), KeepsTables t (t.handIn f) := fun t f =>
    .of_only (handIn_any t f) (by simp [tablePieces, reporting, ofHeads])
  refine .ite (fun _ => .ite (fun _ => ?_) fun _ => ?_) fun _ => (hu s c).trans (hh _ _)
  · exact (writeEntry_tables s _ _ _ _).trans ((hu _ _).trans ((hr _).trans (hh _ _)))
  · exact (hu s c).trans ((count_tables _ _).trans (.of_only (claimRefused_only _ i) (by simp [tablePieces])))

theorem formClaim_tables (s : State) (i : LocalHead) : KeepsTables s (s.formClaim i) := by
  unfold State.formClaim
  dsimp only
  split
  · exact .of_only ((updClaim_only s i _).comp (endClaims_only _ i)) (by simp [tablePieces])
  · split
    · exact (flag_tables s i _).trans (announce_tables _ i _)
    · exact announce_tables s i _

theorem claimRetry_tables (s : State) (i : LocalHead) : KeepsTables s (s.claimRetry i) := by
  have hu : KeepsTables s (s.updClaim i fun _ => .clear) := .of_only (updClaim_only s i _) (by simp [tablePieces])
  unfold State.claimRetry
  split
  · exact .ite (fun _ => .ite (fun _ => hu.trans (formClaim_tables _ i)) fun _ => hu) fun _ => .refl s
  all_goals exact .refl s

theorem claimEcho_tables (s : State) (p : BitVec 32) : KeepsTables s (s.claimEcho p) := by
  unfold State.claimEcho
  refine .ite (fun _ => .refl s) fun _ => ?_
  split
  · next i _ =>
    refine .ite (fun _ => ?_) fun _ => .ite (fun _ => ?_) fun _ => ?_
    · exact .of_only (updClaim_only s i _) (by simp [tablePieces])
    · exact (writeEntry_tables s _ _ _ _).trans
        (.of_only ((updClaim_only _ i _).comp (reportAdmission_only _ i _ _)) (by simp [tablePieces, reporting]))
    · exact (count_tables s _).trans (.of_only (claimRefused_only _ i) (by simp [tablePieces]))
  · exact .refl s

theorem peerClaim_tables (s : State) (src : Address) (p : BitVec 32) : KeepsTables s (s.peerClaim src p) :=
  .ite (fun _ => writeEntry_tables s _ _ _ _) fun _ => .refl s

theorem drawEndEcho_tables (s : State) (g : Nat) : KeepsTables s (s.drawEndEcho g) :=
  .ite (fun _ => removeEntry_tables s _ _) fun _ => .refl s

theorem peerDrawEnd_tables (s : State) (src : Address) (g : Nat) : KeepsTables s (s.peerDrawEnd src g) :=
  .ite (fun _ => removeEntry_tables s _ _) fun _ => .refl s

theorem drawEntryExpiry_tables (s : State) (src : Address) (g : Nat) : KeepsTables s (s.drawEntryExpiry src g) :=
  setTable_tables List.filter_sublist

/-! ## Angle events and counts -/

theorem idlePass_tables (s : State) (i : LocalHead) (jar : Bool) : KeepsTables s (s.idlePass i jar) := by
  have ht := fun f => (takeRecords_tables s (s.globalHead i)).trans (count_tables _ f)
  have hr : ∀ (t : State) (r : JarReport), KeepsTables t (t.reportJar i false r) := fun t r =>
    .of_only (reportJar_only t i false r) (by simp [tablePieces, reporting])
  have hb : ∀ (t : State) (r : Option JarRecord), KeepsTables t (t.beginCycle i r) := fun t r =>
    .of_only (beginCycle_only t i r) (by simp [tablePieces, reporting])
  exact .ite (fun _ => ht _) fun _ => .ite (fun _ => (ht _).trans (hr _ _)) fun _ =>
    .ite (fun _ => (ht _).trans (hb _ _)) fun _ => (ht _).trans (hr _ _)

theorem closeOut_tables (s : State) (i : LocalHead) : KeepsTables s (s.closeOut i) :=
  (KeepsTables.of_only (withdraw_only s i .result) (by simp [tablePieces])).trans ((flag_tables _ i _).trans
    ((markJog_tables _ i).trans ((finish_tables _ i _ _ _).trans (driveFailed_tables _ i))))

theorem infeedPass_tables (s : State) (i : LocalHead) (jar : Bool) : KeepsTables s (s.infeedPass i jar) := by
  unfold State.infeedPass
  split
  · exact idlePass_tables s i jar
  · exact (closeOut_tables s i).trans (idlePass_tables _ i jar)
  all_goals exact .refl s

theorem capPick_tables (s : State) (i : LocalHead) (cap : Bool) : KeepsTables s (s.capPick i cap) :=
  .ite
    (fun _ => .ite
      (fun _ => (markJog_tables s i).trans (.of_only (setPhase_only _ i _) (by simp [tablePieces]))) fun _ =>
        (markJog_tables s i).trans ((flag_tables _ i _).trans
          ((KeepsTables.of_only (withdraw_only _ i _) (by simp [tablePieces])).trans (finish_tables _ i _ _ _))))
    fun _ => .refl s

theorem flushStart_tables (s : State) (i : LocalHead) : KeepsTables s (s.flushStart i) := by
  have h : KeepsTables s ((s.markJog i).setPhase i .claiming) :=
    .of_only ((markJog_only s i).comp (setPhase_only _ i _)) (by simp [tablePieces])
  exact .ite (fun _ => .ite (fun _ => h.trans (.of_only (endClaims_only _ i) (by simp [tablePieces]))) fun _ =>
    .ite (fun _ => h.trans (formClaim_tables _ i)) fun _ => h) fun _ => .refl s

theorem seat_tables (s : State) (i : LocalHead) : KeepsTables s (s.seat i) := by
  have h : KeepsTables s ((s.markJog i).withdrawClaim i) :=
    .of_only ((markJog_only s i).comp (withdrawClaim_only _ i)) (by simp [tablePieces])
  have hp : ∀ t : State, KeepsTables t (t.setPhase i .pressed) := fun t =>
    .of_only (setPhase_only t i _) (by simp [tablePieces])
  have hv : ∀ t : State, KeepsTables t (t.closeValve i) := fun t =>
    .of_only (closeValve_only t i) (by simp [tablePieces, reporting])
  unfold State.seat
  split
  · dsimp only
    split
    · exact h.trans ((flag_tables _ i _).trans ((hv _).trans (hp _)))
    · exact h.trans (hp _)
  · exact h.trans ((flag_tables _ i _).trans (.of_only (updHead_only _ i _) (by simp [tablePieces])))
  all_goals exact .refl s

theorem torqueStart_tables (s : State) (i : LocalHead) : KeepsTables s (s.torqueStart i) := by
  have hr : ∀ t : State, KeepsTables t ((t.request i .start).setPhase i .torquing) := fun t =>
    .of_only ((request_only t i _).comp (setPhase_only _ i _)) (by simp [tablePieces])
  unfold State.torqueStart
  refine .ite (fun _ => ?_) fun _ => .refl s
  dsimp only
  split
  · exact (markJog_tables s i).trans (hr _)
  · exact (markJog_tables s i).trans ((KeepsTables.of_only (driveLate_only _ i) (by simp [tablePieces])).trans (hr _))

theorem release_tables (s : State) (i : LocalHead) : KeepsTables s (s.release i) := by
  have hr : ∀ t : State, KeepsTables t ((t.request i .result).setPhase i .releasing) := fun t =>
    .of_only ((request_only t i _).comp (setPhase_only _ i _)) (by simp [tablePieces])
  unfold State.release
  refine .ite (fun _ => ?_) fun _ => .refl s
  dsimp only
  split
  · exact (markJog_tables s i).trans ((flag_tables _ i _).trans (hr _))
  · exact (markJog_tables s i).trans (hr _)

theorem raiseEvent_tables (jp cp : BitVec 4) (i : LocalHead) (s : State) :
    KeepsTables s (State.raiseEvent jp cp i s) := by
  unfold State.raiseEvent
  split
  · next e _ =>
    cases e with
    | infeed => exact infeedPass_tables s i _
    | capPick => exact capPick_tables s i _
    | flushStart => exact flushStart_tables s i
    | seat => exact seat_tables s i
    | torqueStart => exact torqueStart_tables s i
    | release => exact release_tables s i
  · exact .refl s

theorem setTtu_tables (s : State) (u : Ttu) : KeepsTables s { s with ttu := u } :=
  .of_only (setTtu_only s u) (by decide)

theorem crossing_tables (s : State) (jp cp : BitVec 4) : KeepsTables s (s.crossing jp cp) := by
  have h : ∀ t : State, KeepsTables t ((t.eachOwned (State.raiseEvent jp cp)).recheckClaims) := fun t =>
    (KeepsTables.eachOwned t (raiseEvent_tables jp cp)).trans (.of_only (recheckClaims_only _) (by decide))
  unfold State.crossing
  dsimp only
  split
  · exact (setTtu_tables s _).trans (h _)
  · exact h s

theorem forwardMove_tables (s : State) (jp cp : BitVec 4) : KeepsTables s (s.forwardMove jp cp) :=
  .ite (fun _ => (setTtu_tables s _).trans (crossing_tables _ jp cp)) fun _ => setTtu_tables s _

theorem forwardCount_tables (s : State) (jp cp : BitVec 4) : KeepsTables s (s.forwardCount jp cp) :=
  .ite (fun _ => (setTtu_tables s _).trans (forwardMove_tables _ jp cp)) fun _ => setTtu_tables s _

theorem reverseCount_tables (s : State) : KeepsTables s s.reverseCount := by
  cases hr : s.ttu.referenced with
  | true =>
    have h : KeepsTables s s.movedBack.abortAll := (setTtu_tables s _).trans (abortAll_tables _)
    rw [reverseCount_referenced hr]
    exact .ite (fun _ => h.trans (latch_tables _ _)) fun _ => h
  | false =>
    rw [reverseCount_unreferenced hr]
    exact (setTtu_tables s _).trans (.of_only (beginReverse_only _ _) (by decide))

theorem illegalStep_tables (s : State) : KeepsTables s s.illegalStep :=
  .ite (fun _ => (latch_tables s _).trans ((abortAll_tables _).trans (setTtu_tables _ _))) fun _ => latch_tables s _

theorem correctForward_tables (jp cp : BitVec 4) (n : Nat) (s : State) :
    KeepsTables s (State.correctForward jp cp n s) := by
  induction n generalizing s with
  | zero => exact .refl s
  | succ n ih => exact (forwardMove_tables s jp cp).trans (ih _)

theorem zeroMark_tables (s : State) (jp cp : BitVec 4) : KeepsTables s (s.zeroMark jp cp) :=
  .ite (fun _ => setTtu_tables s _) fun _ =>
    .ite (fun _ => (latch_tables s _).trans ((abortAll_tables _).trans (setTtu_tables _ _))) fun _ =>
      .ite (fun _ => .refl s) fun _ => .ite (fun _ => setTtu_tables s _) fun _ => correctForward_tables jp cp _ s

end Sys2Proof.Machine
end

section
/-!
The draw table, the Record Queue and the awaiting-verdict table through records, verdicts, the join and the resets, and the
statement (O59).
-/
namespace Sys2Proof.Machine

/-! ## Records -/

/-- A head whose local head is found is one of the station's (00_scope). -/
theorem owned_of_localOf {s : State} {g : Nat} (h : ¬ (s.localOf g).isNone = true) : s.fh ≤ g ∧ g < s.fh + s.hc := by
  rw [localOf_isNone_iff] at h
  omega

/-- A record that is queued is for an owned head, its values cut to their ranges (R36, R37). -/
theorem appendRecord_tables {s : State} {r : JarRecord} (ho : s.fh ≤ r.head ∧ r.head < s.fh + s.hc)
    (hm : r.mass ≤ Config.massMax) (ht : r.temp ≤ Config.tempMax) : KeepsTables s (s.appendRecord r) := by
  have happ : ∀ t : State, t.sc.straps = s.sc.straps → KeepsTables t { t with rq := t.rq ++ [r] } := fun t hst h =>
    { h with
      records := fun q hq => by
        rcases List.mem_append.1 hq with hq | hq
        · exact h.records q hq
        · rw [List.mem_singleton.1 hq]
          unfold State.fh State.hc at *
          show (t.sc.straps.fhPins.toNat ≤ r.head ∧ _) ∧ _
          rw [hst]
          exact ⟨ho, hm, ht⟩ }
  rcases Nat.lt_or_ge s.rq.length 32 with h | h
  · rw [appendRecord_room h]
    exact happ s rfl
  · have hv : KeepsTables s s.overrun :=
      (setRecords_tables (List.drop_subset 1 _)).trans ((count_tables _ _).trans (latch_tables _ _))
    rw [appendRecord_full h]
    exact hv.trans (happ _ ((latch_only _ .recordOverrun).keeps .resetting (by decide)).2.2.2)

theorem takeRecord_tables (s : State) (src : Address) (p : BitVec 64) : KeepsTables s (s.takeRecord src p) :=
  .ite (fun _ => .refl s) fun _ => .ite (fun _ => count_tables s _) fun _ => .ite (fun _ => .refl s) fun ho =>
    .ite (fun _ => count_tables s _) fun _ => .ite (fun _ => count_tables s _) fun _ =>
      appendRecord_tables (owned_of_localOf ho) (Nat.min_le_right _ _) (Nat.min_le_right _ _)

/-! ## The drive link and verdicts -/

theorem applyCompletion_tables (s : State) (i : LocalHead) (k : DriveKind) (c : ReplyClass) (torque angle : Nat) :
    KeepsTables s (s.applyCompletion i k c torque angle) := by
  have h := markJog_tables s i
  unfold State.applyCompletion
  dsimp only
  split
  · exact h.trans (.of_only (updHead_only _ i _) (by simp [tablePieces]))
  · exact h.trans (flag_tables _ i _)
  · exact h.trans ((KeepsTables.of_only (updHead_only _ i _) (by simp [tablePieces])).trans (finish_tables _ i _ _ _))
  · exact h.trans ((flag_tables _ i _).trans (finish_tables _ i _ _ _))
  · exact h.trans (.of_only (updSlot_only _ i _) (by simp [tablePieces]))
  · exact h
  · exact h
  · exact h
  · exact h
  · exact .refl s

theorem transactionComplete_tables (s : State) (reply : BitVec 48) : KeepsTables s (s.transactionComplete reply) := by
  unfold State.transactionComplete
  split
  · next t _ =>
    have h : KeepsTables s (({ s with dlc := { s.dlc with current := none } } : State).countCompletion t.head
        (judgeReply t.request.kind reply)) :=
      .of_only ((setCurrent_only s none).comp (countCompletion_only _ _ _)) (by simp [tablePieces, reporting])
    exact .ite (fun _ => .ite (fun _ => h.trans (applyCompletion_tables _ _ _ _ _ _)) fun _ => h) fun _ => .refl s
  · exact .refl s

theorem matchVerdict_tables (s : State) (i : LocalHead) (e : AwaitingEntry) (f : Finding) (depth : Nat) :
    KeepsTables s (s.matchVerdict i e f depth) := by
  have hm : KeepsTables s (s.matchEntry i e f) :=
    (setAwaiting_tables (l := s.vu.awaiting.filter fun a => a.seq != e.seq) List.filter_sublist).trans
      (.of_only ((setRun_only _ 0).comp ((updLearned_only _ i _).comp (updCounters_only _ i _))) (by simp [tablePieces]))
  have hl : ∀ (t : State) (g : VerdictSlot → VerdictSlot), KeepsTables t (t.updLearned i g) := fun t g =>
    .of_only (updLearned_only t i g) (by simp [tablePieces])
  have hb : ∀ t : State, KeepsTables t (t.benchHead i .duds) := fun t =>
    .of_only (benchHead_only t i _) (by simp [tablePieces, reporting])
  exact .ite (fun _ => .ite (fun _ => hm.trans ((hl _ _).trans (hb _))) fun _ => hm.trans (hl _ _)) fun _ => hm

theorem takeVerdict_tables (s : State) (src : Address) (p : BitVec 56) : KeepsTables s (s.takeVerdict src p) := by
  unfold State.takeVerdict
  refine .ite (fun _ => .refl s) fun _ => .ite (fun _ => .refl s) fun _ => ?_
  split
  · exact count_tables s _
  · refine .ite (fun _ => count_tables s _) fun _ => ?_
    split
    · exact matchVerdict_tables s _ _ _ _
    · exact .refl s

theorem verdictExpiry_tables (s : State) : KeepsTables s s.verdictExpiry := by
  unfold State.verdictExpiry
  split
  · exact .refl s
  · next rest hr =>
    have ht : KeepsTables s { s with vu := { s.vu with awaiting := rest } } :=
      setAwaiting_tables (by rw [hr]; exact List.sublist_cons_self _ _)
    have hn : ∀ t : State, KeepsTables t t.noVerdict := fun t => .of_only (noVerdict_only t) (by decide)
    refine .ite (fun _ => ?_) fun _ => .refl s
    dsimp only
    split
    · exact ht.trans ((KeepsTables.of_only (updCounters_only _ _ _) (by simp [tablePieces])).trans (hn _))
    · exact ht.trans (hn _)

theorem takeLineClear_tables (s : State) (src : Address) (p : BitVec 16) : KeepsTables s (s.takeLineClear src p) := by
  have he : KeepsTables s (s.emptied.clearNotices 0xFFFF) :=
    (setRecords_tables (List.nil_subset _)).trans ((setAwaiting_tables (List.nil_sublist _)).trans
      (.of_only ((setRun_only _ 0).comp (clearNotices_only _ _)) (by decide)))
  have hc : ∀ t : State, KeepsTables t t.clearCounts := fun t =>
    (count_tables t fun _ => .zero).trans (.eachOwned _ fun i u => .of_only (updCounters_only u i _) (by simp [tablePieces]))
  have ht : ∀ t : State, KeepsTables t (t.eachOwned State.clearTrim) := fun t =>
    .eachOwned t fun i u => .of_only (updLearned_only u i _) (by simp [tablePieces])
  have hcs : ∀ b : Bool, KeepsTables s (if b then (s.emptied.clearNotices 0xFFFF).clearCounts
      else s.emptied.clearNotices 0xFFFF) := fun _ => .ite (fun _ => he.trans (hc _)) fun _ => he
  exact .ite (fun _ => .ite (fun _ => (hcs _).trans (ht _)) fun _ => hcs _) fun _ => .refl s

/-! ## Joining -/

/-- A station that leaves JOINING begins with empty lists (R46, R64, R125). -/
theorem tryJoin_tables (s : State) : KeepsTables s s.tryJoin := by
  have hj : KeepsTables s s.joinedState := fun _ => tablesLegal_of_empty rfl rfl rfl
  exact .ite (fun _ => hj.trans (.of_only ((changeMask_only _ _).comp (sendJoin_only _)) (by decide))) fun _ => .refl s

theorem joinWindowPass_tables (s : State) : KeepsTables s s.joinWindowPass :=
  .ite (fun _ => (KeepsTables.of_only (setWindow_only s _) (by decide)).trans (tryJoin_tables _)) fun _ => .refl s

theorem takeJoin_tables (s : State) (src : Address) (p : BitVec 24) : KeepsTables s (s.takeJoin src p) := by
  have hl : ∀ (t : State) (b : Bool), KeepsTables t (if b then t.latch .headMapConflict else t) :=
    fun t _ => .ite (fun _ => latch_tables t _) fun _ => .refl t
  have hj : ∀ (t : State) (b : Bool), KeepsTables t (if b then t.sendJoin else t) :=
    fun t _ => .ite (fun _ => .of_only (sendJoin_only t) (by decide)) fun _ => .refl t
  have he : ∀ r, KeepsTables s (s.enterRoster src r p) := fun r => by
    have hr := KeepsTables.of_only (setRoster_only s (writeRoster (s.heardEntry src r p) s.sc.roster)) (by decide)
    have hv := fun b c => hr.trans ((hl _ b).trans (hj _ c))
    exact .ite (fun _ => (hv _ _).trans (tryJoin_tables _)) fun _ => hv _ _
  unfold State.takeJoin
  refine .ite (fun _ => .refl s) fun _ => ?_
  split
  · exact .ite (fun _ => he _) fun _ => .refl s
  · exact .refl s

theorem takeSetup_tables (s : State) (src : Address) (p : BitVec 64) : KeepsTables s (s.takeSetup src p) := by
  unfold State.takeSetup
  refine .ite (fun _ => .refl s) fun _ => .ite (fun _ => latch_tables s _) fun _ => ?_
  split
  · exact .refl s
  · exact (KeepsTables.of_only ((setSetupParts_only s _).comp (latchInvalid_only _ _)) (by decide)).trans (tryJoin_tables _)

theorem takeProfile_tables (s : State) (src : Address) (p : BitVec 64) : KeepsTables s (s.takeProfile src p) := by
  unfold State.takeProfile
  refine .ite (fun _ => .refl s) fun _ => .ite (fun _ => latch_tables s _) fun _ => .ite (fun _ => .refl s) fun _ => ?_
  dsimp only
  split
  · exact .refl s
  · exact (KeepsTables.of_only ((setProfiles_only s _).comp (latchInvalid_only _ _)) (by decide)).trans (tryJoin_tables _)

/-! ## Reception and resets -/

theorem heard_tables (s : State) (src : Address) : KeepsTables s (s.frameEnd.heardOther src) :=
  .of_only ((frameEnd_only s).comp (heardOther_only _ src)) (by decide)

theorem receive_tables (s : State) (src : Address) (owner : State → State) (ho : ∀ t, KeepsTables t (owner t)) :
    KeepsTables s (s.receive src owner) :=
  .ite (fun _ => (heard_tables s src).trans (ho _)) fun _ => .refl s

theorem receive_tables_of_only {ps : List Piece} (s : State) (src : Address) (owner : State → State)
    (ho : ∀ t, ChangesOnly ps t (owner t)) (hd : ∀ p ∈ tablePieces, p ∉ ps) : KeepsTables s (s.receive src owner) :=
  receive_tables s src owner fun t => .of_only (ho t) hd

theorem receiveOr_tables (s : State) (src : Address) (k : FrameKind) (b : List Byte) (echo owner : State → State)
    (he : ∀ t, KeepsTables t (echo t)) (ho : ∀ t, KeepsTables t (owner t)) :
    KeepsTables s (s.receiveOr src k b echo owner) :=
  .ite (fun _ => (KeepsTables.of_only (completed_only s) (by decide)).trans (he _)) fun _ => receive_tables s src owner ho

theorem resetEnd_tables (s : State) (straps : Straps) : KeepsTables s (s.resetEnd straps) :=
  .ite (fun _ => .refl s) fun _ =>
    .ite (fun _ _ => tablesLegal_of_empty rfl rfl rfl) fun _ _ => tablesLegal_of_empty rfl rfl rfl

/-! ## Every step -/

theorem fire_tables (e : TimedEvent) (s : State) : KeepsTables s (e.fire s) := by
  cases e with
  | pitchTimeout => exact .of_only (pitchTimeout_only s) (by decide)
  | coldStop => exact .of_only (coldStop_only s) (by decide)
  | valveClose i => exact .of_only (valveCloseTime_only s i) (by simp [tablePieces, reporting])
  | claimRetry i => exact claimRetry_tables s i
  | drawExpiry src g => exact drawEntryExpiry_tables s src g
  | holdExpiry => exact .of_only (holdExpiry_only s) (by decide)
  | holdRenewal => exact .of_only (holdRenewal_only s) (by decide)
  | stloSample => exact .of_only (stloSample_only s) (by decide)
  | silence => exact .of_only (silenceThreshold_only s) (by decide)
  | relistenEnd => exact .of_only (relistenEnd_only s) (by decide)
  | transactionEnd => exact transactionComplete_tables s _
  | driveGrant => exact .of_only (driveGrant_only s) (by decide)
  | resultWait i => exact .of_only (resultWaitExpiry_only s i) (by simp [tablePieces])
  | verdictExpiry => exact verdictExpiry_tables s
  | joinTimer => exact .of_only (joinTimer_only s) (by decide)
  | joinWindow => exact joinWindowPass_tables s

theorem ifJoined_tables (s : State) (f : State → State) (hf : ∀ t, KeepsTables t (f t)) : KeepsTables s (s.ifJoined f) :=
  .ite (fun _ => hf s) fun _ => .refl s

theorem commandEffect_tables (c : Instr) (s : State) : KeepsTables s (commandEffect c s) := by
  cases c with
  | forwardCount dt jp cp => exact ifJoined_tables s (fun t => t.forwardCount jp cp) (forwardCount_tables · jp cp)
  | reverseCount dt => exact ifJoined_tables s _ reverseCount_tables
  | illegalQuadratureStep dt => exact ifJoined_tables s _ illegalStep_tables
  | zeroMark dt jp cp => exact ifJoined_tables s (fun t => t.zeroMark jp cp) (zeroMark_tables · jp cp)
  | pitchTimeout dt => exact fire_tables .pitchTimeout s
  | coldStop dt => exact fire_tables .coldStop s
  | valveCloseTime dt i => exact fire_tables (.valveClose i) s
  | jarRecord dt src p => exact receive_tables s src (fun t => t.takeRecord src p) (takeRecord_tables · src p)
  | drawClaim dt src p =>
    exact receiveOr_tables s src _ _ (fun t => t.claimEcho p) (fun t => t.peerClaim src p) (claimEcho_tables · p)
      (peerClaim_tables · src p)
  | drawEnd dt src p =>
    exact receiveOr_tables s src _ _ (fun t => t.drawEndEcho p.toNat) (fun t => t.peerDrawEnd src p.toNat)
      (drawEndEcho_tables · p.toNat) (peerDrawEnd_tables · src p.toNat)
  | steamHold dt src p =>
    exact receiveOr_tables s src _ _ (fun t => t.takeHold .own p.toNat) (fun t => t.takeHold .peer p.toNat)
      (fun t => .of_only (takeHold_only t _ _) (by decide)) fun t => .of_only (takeHold_only t _ _) (by decide)
  | claimRetry dt i => exact claimRetry_tables s i
  | drawEntryExpiry dt src head => exact drawEntryExpiry_tables s src head
  | holdExpiry dt => exact fire_tables .holdExpiry s
  | holdRenewal dt => exact fire_tables .holdRenewal s
  | stloFall r => exact .of_only (stloFall_only s r.held) (by decide)
  | stloRise r => exact .of_only (stloRise_only s r.held) (by decide)
  | silenceThreshold dt => exact fire_tables .silence s
  | relistenEnd dt => exact fire_tables .relistenEnd s
  | driveGrant dt => exact fire_tables .driveGrant s
  | driveTransactionComplete dt reply => exact transactionComplete_tables s reply
  | resultWaitExpiry dt i => exact fire_tables (.resultWait i) s
  | verdict dt src p => exact receive_tables s src (fun t => t.takeVerdict src p) (takeVerdict_tables · src p)
  | verdictExpiry dt => exact verdictExpiry_tables s
  | headReturn dt src p => exact receive_tables_of_only s src (fun t => t.takeReturn src p) (takeReturn_only · src p) (by decide)
  | lineMode dt src p => exact receive_tables_of_only s src (fun t => t.takeLineMode src p) (takeLineMode_only · src p) (by decide)
  | lineClear dt src p => exact receive_tables s src (fun t => t.takeLineClear src p) (takeLineClear_tables · src p)
  | join dt src p =>
    exact receiveOr_tables s src _ _ _ (fun t => t.takeJoin src p) (fun t => .of_only (joinEcho_only t) (by decide))
      (takeJoin_tables · src p)
  | joinTimer dt => exact fire_tables .joinTimer s
  | joinWindowPass dt => exact joinWindowPass_tables s
  | setup dt src p => exact receive_tables s src (fun t => t.takeSetup src p) (takeSetup_tables · src p)
  | profile dt src p => exact receive_tables s src (fun t => t.takeProfile src p) (takeProfile_tables · src p)
  | noticeClear dt src p =>
    exact receive_tables_of_only s src (fun t => t.takeNoticeClear src p) (takeNoticeClear_only · src p) (by decide)
  | noticeMaskSet dt src p =>
    exact receive_tables_of_only s src (fun t => t.takeMaskSet src p) (takeMaskSet_only · src p) (by decide)
  | noticeMaskClear dt src p =>
    exact receive_tables_of_only s src (fun t => t.takeMaskClear src p) (takeMaskClear_only · src p) (by decide)
  | counterRequest dt src p =>
    exact receive_tables_of_only s src (fun t => t.takeRequest src p) (takeRequest_only · src p) (by decide)
  | frameContentionStart dt => exact .of_only (contentionStart_only s) (by decide)
  | lostContention r => exact .of_only (lostContention_only s r.bit r.level) (by decide)
  | transmitError r => exact .of_only (transmitError_only s r.bit r.level) (by decide)
  | badFrameReceived dt r => exact .of_only (badReceived_only s r) (by decide)
  | unownedFrame dt src kind payload => exact .of_only (receiveUnowned_only s src kind.toNat payload) (by decide)
  | busIdleSeen dt => exact .of_only (busIdleSeen_only s) (by decide)
  | supplyLow dt => exact fun h => { h with }
  | resetPin dt => exact fun h => { h with }
  | resetEnd dt addr hcPins fh => exact resetEnd_tables s _
  | startBit dt => exact .of_only (startBit_only s) (by decide)
  | contentionWon dt => exact .of_only (contentionWon_only s) (by decide)
  | joinEcho dt => exact .of_only (receiveJoinEcho_only s) (by decide)

/-- The law is kept by every step; as time passes the capped times lie further back. -/
theorem keptByStep_tablesLegal : KeptByStep State.TablesLegal :=
  keptByStep_of_effects (fun _ _ h => { h with })
    (fun _ _ hle h => { h with awaiting := ⟨h.awaiting.1, fun e he => (h.awaiting.2 e he).trans hle⟩ })
    (fun e s => fire_tables e s) fun c s _ => commandEffect_tables c s

/-- Settles O59: the clock, every timed row and every command's effect keep the law. -/
theorem tableEntriesStayLegal : Obligations.TableEntriesStayLegal := fun s t ⟨hk, hr, ha⟩ ht =>
  let h := keptByStep_tablesLegal s t ⟨hk, hr, ha⟩ ht
  ⟨h.keys, h.records, h.awaiting⟩

end Sys2Proof.Machine
end


section
/-!
The frames of the shared steam and the ends of its timers: a peer's claim (O21), the removal of entries (O23), holds (O24),
the steam-low input (O25), the silence and the relisten (O26).
-/
namespace Sys2Proof.Machine

/-! ## The reception of a frame this station sends too -/

section
variable {s : State} {dt : Nat} {src : Address} {k : FrameKind} {b : List Byte} (echo owner : State → State)

/-- A frame that is no echo goes to its owner as it has been heard (R166, R167). -/
theorem whenLive_receiveOr_heard (h : s.hears dt src k b) :
    s.whenLive dt (fun t => t.receiveOr src k b echo owner) = owner (s.heard dt src) := by
  obtain ⟨hr, he⟩ := h
  rw [whenLive_live (reads_live hr)]
  unfold State.receiveOr
  rw [hr, he]
  exact receive_reads hr src owner

/-- An echo is taken on the station whose frame in flight has completed (R161, R167). -/
theorem whenLive_receiveOr_echoed (h : s.echoes dt src k b) :
    s.whenLive dt (fun t => t.receiveOr src k b echo owner) = echo (s.elapse dt).completed := by
  obtain ⟨hr, he⟩ := h
  rw [whenLive_live (reads_live hr)]
  unfold State.receiveOr
  rw [hr, he]
  rfl

end

theorem capping_iff (s : State) : s.capping = true ↔ s.sc.mode = .running ∨ s.sc.mode = .jog := by
  simp [State.capping]

/-! ## Claims and draw ends of other stations -/

theorem fromPeerCapper_iff (s : State) (src : Address) : s.fromPeerCapper src = true ↔
    s.joined = true ∧ src ≠ s.addr ∧ s.roleOf src = some .capper := by
  simp [State.fromPeerCapper, and_assoc]

/-- The place in the table and the hold that every admission test asks for (R66, R85). -/
theorem tableOpen_iff (s : State) (src : Address) (g : Nat) : s.tableOpen src g = true ↔
    s.sdu.hold = none ∧ (s.sdu.table.any (fun e => e.src == src && e.head == g) = true ∨ s.sdu.table.length < 64) := by
  simp only [State.tableOpen, Bool.and_eq_true, Bool.or_eq_true, decide_eq_true_eq, Option.isNone_iff_eq_none]
  rfl

theorem admitsLine_iff (s : State) (src : Address) (g f : Nat) : s.admitsLine src g f = true ↔
    s.tableOpen src g = true ∧ s.lineUnits src g + f ≤ s.setup.C := by
  simp [State.admitsLine]

theorem admitsIsolated_iff (s : State) (g f : Nat) : s.admitsIsolated g f = true ↔
    s.tableOpen s.addr g = true ∧ s.ownUnits g + f ≤ max 1 (s.setup.C / s.ncap) := by
  simp only [State.admitsIsolated, Bool.and_eq_true, decide_eq_true_eq]
  rfl

/-- Settles O21: the station takes the claim where it is a peer's with fields in range, and admits it where the line
does. -/
theorem peerClaimIsAdmittedByTheTable : Obligations.PeerClaimIsAdmittedByTheTable := by
  rintro s t dt src p rfl hh
  intro g f isIt sum taken fits
  have he : exec (.drawClaim dt src p) s = .next ((s.heard dt src).peerClaim src p) :=
    congrArg Host.Outcome.next (whenLive_receiveOr_heard _ _ hh)
  have hcond : ((s.heard dt src).fromPeerCapper src && decide (g < (s.heard dt src).setup.P) && decide (1 ≤ f ∧ f ≤ 4)
      && (s.heard dt src).admitsLine src g f) = true ↔ taken ∧ fits := by
    simp only [Bool.and_eq_true, decide_eq_true_eq, fromPeerCapper_iff, admitsLine_iff, tableOpen_iff]
    constructor
    · rintro ⟨⟨⟨⟨hj, hs, hr⟩, hg⟩, hf⟩, ⟨hh, ht⟩, hl⟩
      exact ⟨⟨hj, hs, hr, hg, hf⟩, hh, hl, ht⟩
    · rintro ⟨⟨hj, hs, hr, hg, hf⟩, hh, hl, ht⟩
      exact ⟨⟨⟨⟨hj, hs, hr⟩, hg⟩, hf⟩, ⟨hh, ht⟩, hl⟩
  refine ⟨fun ht hf => ?_, fun hn => ?_⟩
  · exact he.trans (congrArg Host.Outcome.next (if_pos (hcond.2 ⟨ht, hf⟩)))
  · exact he.trans (congrArg Host.Outcome.next (if_neg fun h => hn (hcond.1 h)))

/-- Settles O23: a peer's DRAW_END and the own echo take the entry out, and so does the end time, each in its filter. -/
theorem drawEndAndEndTimeRemoveEntries : Obligations.DrawEndAndEndTimeRemoveEntries := by
  refine ⟨?peer, ?own, ?expiry⟩
  case peer =>
    rintro s t dt src p rfl hh
    intro taken
    have he : exec (.drawEnd dt src p) s = .next ((s.heard dt src).peerDrawEnd src p.toNat) :=
      congrArg Host.Outcome.next (whenLive_receiveOr_heard _ _ hh)
    have hcond : ((s.heard dt src).fromPeerCapper src && decide (p.toNat < (s.heard dt src).setup.P)) = true ↔ taken := by
      simp only [Bool.and_eq_true, decide_eq_true_eq, fromPeerCapper_iff, and_assoc, taken]
    exact ⟨fun ht => he.trans (congrArg Host.Outcome.next (if_pos (hcond.2 ht))),
      fun hn => he.trans (congrArg Host.Outcome.next (if_neg (mt hcond.1 hn)))⟩
  case own =>
    rintro s t dt p rfl hh
    have he : exec (.drawEnd dt s.addr p) s = .next ((s.elapse dt).completed.drawEndEcho p.toNat) :=
      congrArg Host.Outcome.next (whenLive_receiveOr_echoed _ _ hh)
    exact ⟨fun hj => he.trans (congrArg Host.Outcome.next (if_pos hj)),
      fun hj => he.trans (congrArg Host.Outcome.next (if_neg (by simp [hj])))⟩
  case expiry =>
    rintro s t dt src head rfl hlive
    exact congrArg Host.Outcome.next (whenLive_live hlive fun t => t.drawEntryExpiry src head)

/-! ## Holds -/

theorem takeHold_joining {s : State} (h : s.joined = false) (o : HoldOrigin) (q : Nat) : s.takeHold o q = s :=
  if_pos (by simp [h])

/-- A hold of 0 stops the timer and makes the origin PEER, any other sets it (R78). -/
theorem takeHold_joined {s : State} (h : s.joined = true) (o : HoldOrigin) (p : BitVec 16) :
    s.takeHold o p.toNat = { s with sdu := { s.sdu with
      hold := if p = 0 then none else some (s.now + p.toNat * 1000), origin := if p = 0 then .peer else o } } := by
  have hz : p.toNat = 0 ↔ p = 0 := ⟨fun h => BitVec.eq_of_toNat_eq h, fun h => h ▸ rfl⟩
  rw [State.takeHold, if_neg (by simp [h])]
  by_cases hp : p = 0
  · rw [if_pos (hz.2 hp), if_pos hp, if_pos hp]
  · rw [if_neg (mt hz.1 hp), if_neg hp, if_neg hp]

theorem reached_iff (t : Option Nat) (now : Nat) : reached t now = true ↔ ∃ w ∈ t, w ≤ now := by
  cases t <;> simp [reached]

/-- A timer whose end lies ahead, or that does not run, is not reached. -/
theorem not_reached {t : Option Nat} {now : Nat} (h : ∀ w ∈ t, now < w) : ¬ reached t now = true := by
  rw [reached_iff]
  rintro ⟨w, hw, hle⟩
  exact absurd (h w hw) (Nat.not_lt.2 hle)

theorem holdCalled_iff (s : State) : s.holdCalled = true ↔
    s.sdu.stlo = .low ∧ (s.sc.mode = .running ∨ s.sc.mode = .jog) ∧ 0 < s.setup.Hq := by
  simp [State.holdCalled, capping_iff, and_assoc]

/-- At its end the hold timer stops, and an own hold of a header still low is followed by a further one (R82). -/
theorem holdExpiry_reached {s : State} (h : ∃ w ∈ s.sdu.hold, w ≤ s.now) :
    let ended : State := { s with sdu := { s.sdu with hold := none } }
    s.holdExpiry = if s.holdCalled = true ∧ s.sdu.origin = .own then ended.sendHold else ended := by
  unfold State.holdExpiry
  rw [if_pos ((reached_iff _ _).2 h)]
  simp only [and_comm]

/-- A renewal that is due sends a hold where the header is still low, and lapses where it is not (R83). -/
theorem holdRenewal_reached {s : State} (h : ∃ w ∈ s.sdu.renewal, w ≤ s.now) :
    let lapsed : State := { s with sdu := { s.sdu with renewal := none } }
    s.holdRenewal = if s.holdCalled = true then lapsed.sendHold else lapsed :=
  if_pos ((reached_iff _ _).2 h)

/-- Settles O24: a hold received sets or stops the timer, and its end and the renewal send a further one where it is
called for. -/
theorem holdsAreSetStoppedAndRenewed : Obligations.HoldsAreSetStoppedAndRenewed := by
  refine ⟨?peer, ?own, ?timers⟩
  case peer =>
    rintro s t dt src p rfl hh
    have he : exec (.steamHold dt src p) s = .next ((s.heard dt src).takeHold .peer p.toNat) :=
      congrArg Host.Outcome.next (whenLive_receiveOr_heard _ _ hh)
    refine ⟨fun hj => he.trans (congrArg Host.Outcome.next (takeHold_joining hj _ _)), fun hj => ?_⟩
    rw [he, takeHold_joined hj, ite_self]
  case own =>
    rintro s t dt p rfl hh
    have he : exec (.steamHold dt s.addr p) s = .next ((s.elapse dt).completed.takeHold .own p.toNat) :=
      congrArg Host.Outcome.next (whenLive_receiveOr_echoed _ _ hh)
    exact ⟨fun hj => he.trans (congrArg Host.Outcome.next (takeHold_joining hj _ _)),
      fun hj => he.trans (congrArg Host.Outcome.next (takeHold_joined hj _ _))⟩
  case timers =>
    rintro s t dt rfl hlive
    intro low ended lapsed
    have hx : exec (.holdExpiry dt) s = .next (s.elapse dt).holdExpiry :=
      congrArg Host.Outcome.next (whenLive_live hlive _)
    have hr : exec (.holdRenewal dt) s = .next (s.elapse dt).holdRenewal :=
      congrArg Host.Outcome.next (whenLive_live hlive _)
    have hl : (s.elapse dt).holdCalled = true ↔ low := holdCalled_iff _
    rw [hx, hr]
    refine ⟨fun h => ?_, fun h => ?_, fun h => ?_, fun h => ?_⟩
    · rw [holdExpiry_reached h]
      simp only [hl]
      rfl
    · exact congrArg Host.Outcome.next (if_neg (not_reached h))
    · rw [holdRenewal_reached h]
      simp only [hl]
      rfl
    · exact congrArg Host.Outcome.next (if_neg (not_reached h))

/-! ## The steam-low input -/

/-- The station with a fall taken: the level is LOW and STEAM_LOW is latched (R80). -/
def State.fallen (s : State) : State :=
  ({ s with sdu := { s.sdu with stlo := .low } } : State).latch .steamLow

theorem fallen_only (s : State) : ChangesOnly (.stlo :: reporting) s s.fallen :=
  (setStlo_only s .low).comp (latch_only _ _)

/-- After a fall a hold is called for in RUNNING or JOG with Hq above 0 (R81). -/
theorem holdCalled_fallen (s : State) : s.fallen.holdCalled = true ↔
    (s.sc.mode = .running ∨ s.sc.mode = .jog) ∧ 0 < s.setup.Hq := by
  have hstlo : s.fallen.sdu.stlo = .low := (latch_only _ _).keeps .stlo (by decide)
  have hmode : s.fallen.sc.mode = s.sc.mode := (fallen_only s).keeps .mode (by decide)
  rw [holdCalled_iff, State.setup_of_same ((fallen_only s).keeps .setupParts (by decide)), hmode]
  simp [hstlo]

/-- A sample that finds low while the level taken is HIGH is a fall (R80, R81). -/
theorem stloSample_fall {s : State} (hi : s.sdu.stloInput = .low) (hl : s.sdu.stlo = .high) :
    s.stloSample = if (s.sc.mode = .running ∨ s.sc.mode = .jog) ∧ 0 < s.setup.Hq
      then s.fallen.handIn (.steamHold s.setup.Hq) else s.fallen := by
  have hs : s.fallen.sendHold = s.fallen.handIn (.steamHold s.setup.Hq) := by
    rw [State.sendHold, State.setup_of_same ((fallen_only s).keeps .setupParts (by decide))]
  have h : s.stloSample = if s.fallen.holdCalled = true then s.fallen.sendHold else s.fallen := by
    unfold State.stloSample
    rw [hi, hl]
    rfl
  simp only [h, holdCalled_fallen, hs]

/-- A sample that finds high while the level taken is LOW is a rise (R80). -/
theorem stloSample_rise {s : State} (hi : s.sdu.stloInput = .high) (hl : s.sdu.stlo = .low) :
    s.stloSample = { s with sdu := { s.sdu with stlo := .high } } := by
  unfold State.stloSample
  rw [hi, hl]

theorem stloSample_same {s : State} (h : s.sdu.stloInput = s.sdu.stlo) : s.stloSample = s := by
  unfold State.stloSample
  rw [h]
  cases s.sdu.stlo <;> rfl

/-- A change gets through the filter where the input has stood at the new level for 2 ms, and no longer than since the
last change (R80). -/
theorem stloFilter_eq (s : State) (l : StloLevel) (held : Nat) :
    s.stloFilter l held = if s.sdu.stloInput ≠ l ∧ 2000 ≤ held ∧ ∀ w ∈ s.sdu.stloSince, w + held ≤ s.now
      then { s with sdu := { s.sdu with stloInput := l, stloSince := some s.now } } else s := by
  have hset : s.stloSettled held = true ↔ 2000 ≤ held ∧ ∀ w ∈ s.sdu.stloSince, w + held ≤ s.now := by
    cases h : s.sdu.stloSince <;> simp [State.stloSettled, h, Config.stloFilter, Config.ms]
  simp only [State.stloFilter, hset]

/-- The sample of the filtered level, in the words of the statement. -/
theorem stloSample_spec (v : State) :
    (v.sdu.stloInput = .low → v.sdu.stlo = .high →
      v.stloSample = (if (v.sc.mode = .running ∨ v.sc.mode = .jog) ∧ 0 < v.setup.Hq
          then v.fallen.handIn (.steamHold v.setup.Hq) else v.fallen)
        ∧ hasNotice v.fallen.sc.latched .steamLow = true ∧ ChangesOnly (.stlo :: reporting) v v.fallen)
    ∧ (v.sdu.stloInput = .high → v.sdu.stlo = .low → v.stloSample = { v with sdu := { v.sdu with stlo := .high } })
    ∧ (v.sdu.stloInput = v.sdu.stlo → v.stloSample = v) :=
  ⟨fun hi hl => ⟨stloSample_fall hi hl, latch_has _ _, fallen_only v⟩, stloSample_rise, stloSample_same⟩

theorem stloDue_iff (s : State) : s.stloDue = true ↔ s.sdu.stloInput ≠ s.sdu.stlo := by
  simp [State.stloDue]

/-- A sample is listed among the timers where it is due, at the present moment (log 18). -/
theorem mem_timers_stloSample {s : State} (h : s.sc.inReset = false) :
    (s.now, TimedEvent.stloSample) ∈ s.timers ↔ s.stloDue = true := by
  have hx : (s.now, TimedEvent.stloSample) ∉ s.expiryTimer := by
    unfold State.expiryTimer
    split <;> simp
  simp [State.timers, h, State.headTimers, hx]

/-- Settles O25: both commands pass the level through the filter and take a sample of what it lets through. -/
theorem steamLowFallsAndRises : Obligations.SteamLowFallsAndRises := by
  refine ⟨?commands, ?timed⟩
  case commands =>
    rintro s t dt held rfl hlive c hc
    intro settled v fallen
    have he : exec c.1 s = .next ((s.elapse dt).stloFilter c.2 held).stloSample := by
      simp only [List.mem_cons, List.not_mem_nil, or_false] at hc
      rcases hc with rfl | rfl
      · exact congrArg Host.Outcome.next (whenLive_live hlive fun t => t.stloFall held)
      · exact congrArg Host.Outcome.next (whenLive_live hlive fun t => t.stloRise held)
    have hv : (s.elapse dt).stloFilter c.2 held = v := stloFilter_eq _ _ _
    have hstlo : v.sdu.stlo = (s.elapse dt).sdu.stlo := hv ▸ (stloFilter_only _ _ _).keeps .stlo (by decide)
    have hmode : v.sc.mode = (s.elapse dt).sc.mode := hv ▸ (stloFilter_only _ _ _).keeps .mode (by decide)
    have hset : v.setup = (s.elapse dt).setup :=
      hv ▸ State.setup_of_same ((stloFilter_only _ _ _).keeps .setupParts (by decide))
    rw [he, hv, ← hstlo, ← hmode, ← hset]
    obtain ⟨hfall, hrise, hsame⟩ := stloSample_spec v
    refine ⟨fun hi hl => ?_, fun hi hl => congrArg _ (hrise hi hl), fun h => congrArg _ (hsame h)⟩
    obtain ⟨hs, hn, hch⟩ := hfall hi hl
    exact ⟨congrArg _ hs, hn, hch⟩
  case timed =>
    intro t hlive fallen
    obtain ⟨hfall, hrise, hsame⟩ := stloSample_spec t
    refine ⟨?_, fun hi hl => (hfall hi hl).1, hrise, hsame⟩
    rw [← stloDue_iff]
    exact mem_timers_stloSample hlive

/-! ## The silence and the relisten -/

/-- The pieces of the Steam Draw Unit. -/
def steamPieces : List Piece :=
  [.table, .hold, .renewal, .stlo, .stloInput, .isolation] ++ ofHeads .claim

theorem sdu_of_only {ps : List Piece} {s t : State} (h : ChangesOnly ps s t) (hd : ∀ p ∈ steamPieces, p ∉ ps) :
    t.sdu = s.sdu := by
  have hk : ∀ p ∈ steamPieces, p.same s t := fun p hp => h.keeps p (hd p hp)
  have hclaims : t.sdu.claims = s.sdu.claims := PerHead.ext_get fun i =>
    hk (.claim i) (by simp [steamPieces, mem_ofHeads])
  obtain ⟨hhold, horigin⟩ := hk .hold (by decide)
  obtain ⟨hinput, hsince⟩ := hk .stloInput (by decide)
  obtain ⟨hisolated, hrelisten⟩ := hk .isolation (by decide)
  have htable := hk .table (by decide)
  have hrenewal := hk .renewal (by decide)
  have hstlo := hk .stlo (by decide)
  simp only [Piece.same] at htable hrenewal hstlo
  cases h₁ : t.sdu
  cases h₂ : s.sdu
  simp_all

theorem silenceDue_iff (s : State) : s.silenceDue = true ↔
    (s.sc.mode = .running ∨ s.sc.mode = .jog) ∧ s.sdu.isolated = false ∧ 250 ≤ s.silenceTimer := by
  simp [State.silenceDue, capping_iff, and_assoc]

/-- Settles O26: the silence isolates where it is due, the relisten stops where its end is reached. -/
theorem silenceIsolatesAndRelistenEnds : Obligations.SilenceIsolatesAndRelistenEnds := by
  rintro s t dt rfl hlive
  intro silence due
  have hs : exec (.silenceThreshold dt) s = .next (s.elapse dt).silenceThreshold :=
    congrArg Host.Outcome.next (whenLive_live hlive _)
  have hr : exec (.relistenEnd dt) s = .next (s.elapse dt).relistenEnd :=
    congrArg Host.Outcome.next (whenLive_live hlive _)
  have hdue : (s.elapse dt).silenceDue = true ↔ due := silenceDue_iff _
  refine ⟨rfl, fun hd => ?_, fun hn => ?_, fun h => ?_, fun h => ?_⟩
  · exact ⟨_, hs.trans (congrArg Host.Outcome.next (if_pos (hdue.2 hd))), rfl,
      sdu_of_only (latch_only _ _) (by decide), latch_has _ _, (setIsolated_only _ true).comp (latch_only _ _)⟩
  · exact hs.trans (congrArg Host.Outcome.next (if_neg (mt hdue.1 hn)))
  · exact hr.trans (congrArg Host.Outcome.next (if_pos ((reached_iff _ _).2 h)))
  · exact hr.trans (congrArg Host.Outcome.next (if_neg (not_reached h)))

end Sys2Proof.Machine
end



section
/-!
A claim of the station's own, from the call that forms it to its echo: the echo admitted or refused (O22), and the claim
formed, queued or decided in isolation (O27).
-/
namespace Sys2Proof.Machine

/-! ## What becomes of a claim -/

theorem localOf_globalHead {s : State} {i : LocalHead} (h : s.owns i = true) : s.localOf (s.fh + i.val) = some i := by
  have hi : i.val < s.hc := by simpa [State.owns] using h
  unfold State.localOf
  rw [if_pos (by omega), Nat.add_sub_cancel_left]
  simp

theorem mayClaim_of_head {s t : State} {i : LocalHead} (h : t.head i = s.head i) : t.mayClaim i = s.mayClaim i := by
  unfold State.mayClaim
  rw [h]

/-- An admission at a head that may claim opens its valve for the claim dwell (R19, R113). -/
theorem reportAdmission_opens {s : State} {i : LocalHead} (h : s.mayClaim i = true) (dwell : Nat) (x : Bool) :
    s.reportAdmission i dwell x = s.updHead i fun _ => { s.head i with
      phase := .flushing, valveOpen := true, valveOpenedAt := s.now, valveCloseAt := s.now + dwell * 1000,
      purgePending := (s.head i).purgePending && !x, flags := s.withJog (s.head i).flags } := by
  unfold State.reportAdmission
  rw [if_pos h, markJog_eq, State.updHead_updHead]
  exact State.updHead_congr rfl

/-- At any other head it is followed by a DRAW_END at once (R76). -/
theorem reportAdmission_ends {s : State} {i : LocalHead} (h : ¬ s.mayClaim i = true) (dwell : Nat) (x : Bool) :
    s.reportAdmission i dwell x = s.handIn (.drawEnd (s.globalHead i)) :=
  if_neg h

/-- A claim refused waits 5 ms where its head may claim, and is gone where it may not (R71, R74). -/
theorem claimRefused_claim (s : State) (i : LocalHead) : (s.claimRefused i).claim i =
    if s.mayClaim i then { s.claim i with state := .retry (s.now + 5000) } else .clear := by
  unfold State.claimRefused
  split
  · exact State.claim_updClaim_same s i _
  · exact State.claim_updClaim_same s i _

/-- A claim counted as not admitted (R71, R85). -/
def State.claimDenied (s : State) (i : LocalHead) : State :=
  (s.count fun k => { k with claimsRefused := bump k.claimsRefused }).claimRefused i

theorem claimDenied_only (s : State) (i : LocalHead) : ChangesOnly [.claimsRefused, .claim i] s (s.claimDenied i) :=
  (count_claimsRefused_only s _).comp (claimRefused_only _ i)

theorem claimDenied_count (s : State) (i : LocalHead) :
    (s.claimDenied i).counters.claimsRefused = min 65535 (s.counters.claimsRefused + 1) :=
  (claimRefused_only _ i).keeps .claimsRefused (by simp)

theorem claimDenied_claim (s : State) (i : LocalHead) : (s.claimDenied i).claim i =
    if s.mayClaim i then { s.claim i with state := .retry (s.now + 5000) } else .clear :=
  claimRefused_claim _ i

/-! ## The echo -/

/-- The test of an echo: against the line, in isolation against the own share, and during the relisten against both
(R71, R86, R87). -/
theorem admitsEcho_iff (s : State) (g f : Nat) : s.admitsEcho g f = true ↔
    s.tableOpen s.addr g = true
      ∧ (if s.sdu.isolated then s.ownUnits g + f ≤ max 1 (s.setup.C / s.ncap)
        else if s.sdu.relisten ≠ none then s.lineUnits s.addr g + f ≤ s.setup.C
            ∧ s.ownUnits g + f ≤ max 1 (s.setup.C / s.ncap)
          else s.lineUnits s.addr g + f ≤ s.setup.C) := by
  unfold State.admitsEcho
  cases s.sdu.isolated with
  | true => exact admitsIsolated_iff s g f
  | false =>
    cases s.sdu.relisten with
    | none => exact admitsLine_iff s s.addr g f
    | some w =>
      show (s.admitsLine s.addr g f && s.admitsIsolated g f) = true ↔ _ ∧ (_ ∧ _)
      rw [Bool.and_eq_true, admitsLine_iff, admitsIsolated_iff]
      tauto

/-- The station with the entry of an own claim written and the claim cleared (R67, R71). -/
def State.claimTaken (s : State) (i : LocalHead) (p : BitVec 32) : State :=
  (s.writeEntry s.addr (claimHead p) (claimUnits p) (claimDwell p)).updClaim i fun _ => .clear

theorem claimTaken_only (s : State) (i : LocalHead) (p : BitVec 32) :
    ChangesOnly [.table, .claim i] s (s.claimTaken i p) :=
  (writeEntry_only s _ _ _ _).comp (updClaim_only _ i _)

theorem claimTaken_claim (s : State) (i : LocalHead) (p : BitVec 32) : (s.claimTaken i p).claim i = .clear :=
  State.claim_updClaim_same _ i _

theorem headEcho_local {s : State} {i : LocalHead} (h : (s.claim i).admittedLocally = true) (p : BitVec 32) :
    s.headEcho i p = s.updClaim i fun _ => .clear :=
  if_pos h

theorem headEcho_admitted {s : State} {i : LocalHead} {p : BitVec 32} (h : (s.claim i).admittedLocally = false)
    (ha : s.admitsEcho (claimHead p) (claimUnits p) = true) :
    s.headEcho i p = (s.claimTaken i p).reportAdmission i (claimDwell p) (s.claim i).extension :=
  (if_neg (by simp [h])).trans (if_pos ha)

theorem headEcho_refused {s : State} {i : LocalHead} {p : BitVec 32} (h : (s.claim i).admittedLocally = false)
    (ha : ¬ s.admitsEcho (claimHead p) (claimUnits p) = true) : s.headEcho i p = s.claimDenied i :=
  (if_neg (by simp [h])).trans (if_neg ha)

theorem claimEcho_owned {s : State} {i : LocalHead} {p : BitVec 32} (hj : s.joined = true) (ho : s.owns i = true)
    (hp : claimHead p = s.fh + i.val) : s.claimEcho p = s.headEcho i p := by
  unfold State.claimEcho
  rw [hp, localOf_globalHead ho, hj]
  rfl

/-- Settles O22: the echo is decided by its test, and an admission by whether its head may claim. -/
theorem ownClaimEchoOpensTheValveOrRetries : Obligations.OwnClaimEchoOpensTheValveOrRetries := by
  rintro s t dt p i rfl hh hj hp ho
  generalize ht : (s.elapse dt).completed = t at *
  have hfly : t.lbi.inFlight = none := by rw [← ht]; rfl
  intro g f h isIt sum own room line share admits claiming
  have he : exec (.drawClaim dt s.addr p) s = .next (t.headEcho i p) := by
    rw [← claimEcho_owned hj ho hp, ← ht]
    exact congrArg Host.Outcome.next (whenLive_receiveOr_echoed (fun u => u.claimEcho p) _ hh)
  have hadmits : t.admitsEcho g f = true ↔ admits := (admitsEcho_iff t g f).trans (and_congr_left' (tableOpen_iff t _ _))
  have hmay : t.mayClaim i = true ↔ claiming := mayClaim_iff t i
  have hmay' : (t.claimTaken i p).mayClaim i = t.mayClaim i := rfl
  have hkept := claimTaken_only t i p
  refine ⟨_, he, ((headEcho_only t i p).keeps .inFlight (by simp [claimPieces, reporting])).trans hfly,
    fun hl => headEcho_local hl p, fun hl ha => ?_, fun hl ha => ?_⟩
  · rw [headEcho_admitted hl (hadmits.2 ha)]
    have hr := reportAdmission_only (t.claimTaken i p) i (claimDwell p) (t.claim i).extension
    refine ⟨(hr.keeps (.claim i) (by simp [reporting])).trans (claimTaken_claim t i p),
      hr.keeps .table (by simp [reporting]), fun hc => ?_, fun hc => ?_⟩
    · rw [reportAdmission_opens (hmay'.trans (hmay.2 hc))]
      exact ⟨State.head_updHead_same _ i _, (hkept.comp (updHead_only _ i _)).mono (by simp)⟩
    · have hend := reportAdmission_ends (s := t.claimTaken i p) (i := i) (by rw [hmay', hmay]; exact hc)
        (claimDwell p) (t.claim i).extension
      have hg : (t.claimTaken i p).globalHead i = g := hp.symm
      rw [hg] at hend
      rw [hend]
      exact ⟨(SameBus.of_only hkept (by simp [busPieces])).queues (.refl _),
        hkept.comp (handIn_reporting _ rfl)⟩
  · rw [headEcho_refused hl fun h => ha (hadmits.1 h)]
    exact ⟨claimDenied_count t i, fun hc => (claimDenied_claim t i).trans (if_pos (hmay.2 hc)),
      fun hc => (claimDenied_claim t i).trans (if_neg (mt hmay.1 hc)), claimDenied_only t i⟩

end Sys2Proof.Machine
end



section
/-!
A claim formed for a head (O27): what the claim call makes of it, where its frame goes, and what the loss of that frame at a
queue full of class 0 brings.
-/
namespace Sys2Proof.Machine

/-! ## A frame lost at a queue full of class 0 -/

/-- The transmit queue is full, and every frame in it is of class 0 (R163). -/
def State.crowded (s : State) : Prop :=
  s.lbi.queue.length = 16 ∧ ∀ e ∈ s.lbi.queue, e.frame.cls = 0

/-- No frame displaces one of class 0, so the arriving one is lost (R163). -/
theorem placeTx_crowded {s : State} (h : s.crowded) (e : TxEntry) :
    placeTx e s.lbi.queue = (s.lbi.queue, some e.frame) := by
  obtain ⟨hlen, hcls⟩ := h
  unfold placeTx
  rw [if_neg (by rw [hlen]; decide)]
  split
  · next w hw => exact if_neg (by rw [hcls w (List.mem_of_getLast? hw)]; omega)
  · rfl

/-- A frame that is lost on arrival is counted, and the queue stays (R163). -/
theorem arrive_crowded {s : State} (h : s.crowded) (e : TxEntry) :
    (s.arrive e).lbi.queue = s.lbi.queue ∧ (s.arrive e).counters.txDrops = bump s.counters.txDrops := by
  unfold State.arrive State.lostAt
  rw [placeTx_crowded h e]
  exact ⟨rfl, rfl⟩

/-- The NOTICE that a loss may ask for is lost in its turn (log 21). -/
theorem latchTxDrop_crowded {s : State} (h : s.crowded) : s.latchTxDrop.lbi.queue = s.lbi.queue := by
  unfold State.latchTxDrop
  split
  · rfl
  · dsimp only
    split
    · rfl
    · exact (arrive_crowded (s := (s.setLatched .txDrop).nextAge) h _).1

theorem latchTxDrop_txDrops {s : State} (h : s.crowded) (hc : s.counters.txDrops ≤ 65535) :
    s.counters.txDrops ≤ s.latchTxDrop.counters.txDrops := by
  unfold State.latchTxDrop
  split
  · exact Nat.le_refl _
  · dsimp only
    split
    · exact Nat.le_refl _
    · rw [(arrive_crowded (s := (s.setLatched .txDrop).nextAge) h _).2]
      exact Nat.le_min.2 ⟨hc, Nat.le_succ _⟩

theorem latchTxDrop_has (s : State) : hasNotice s.latchTxDrop.sc.latched .txDrop = true := by
  unfold State.latchTxDrop
  split
  · assumption
  · dsimp only
    split
    · exact setLatched_has s _
    · exact setLatched_has s _

/-- The station with an arriving frame lost and its loss counted and latched (R163). -/
def State.frameLost (s : State) (f : TxFrame) : State :=
  (s.nextAge.arrive (s.newEntry f)).latchTxDrop

theorem frameLost_only (s : State) (f : TxFrame) : ChangesOnly reporting s (s.frameLost f) :=
  ((nextAge_only s).comp ((arrive_only _ _).comp (latchTxDrop_only _))).widen (by decide)

theorem handIn_crowded {s : State} (h : s.crowded) (f : TxFrame) : s.handIn f = (s.frameLost f).takeLoss f := by
  have hl : s.nextAge.lostAt (s.newEntry f) = some f := congrArg Prod.snd (placeTx_crowded (s := s.nextAge) h _)
  unfold State.handIn State.enter
  rw [hl]
  rfl

theorem arrive_nextAge_crowded {s : State} (h : s.crowded) (e : TxEntry) : (s.nextAge.arrive e).crowded := by
  unfold State.crowded
  rw [(arrive_crowded (s := s.nextAge) h e).1]
  exact h

theorem frameLost_queue {s : State} (h : s.crowded) (f : TxFrame) : (s.frameLost f).lbi.queue = s.lbi.queue :=
  (latchTxDrop_crowded (arrive_nextAge_crowded h _)).trans (arrive_crowded (s := s.nextAge) h _).1

theorem frameLost_txDrops {s : State} (h : s.crowded) (f : TxFrame) :
    min 65535 (s.counters.txDrops + 1) ≤ (s.frameLost f).counters.txDrops := by
  have ha : (s.nextAge.arrive (s.newEntry f)).counters.txDrops = bump s.counters.txDrops :=
    (arrive_crowded (s := s.nextAge) h _).2
  have hle := latchTxDrop_txDrops (arrive_nextAge_crowded h (s.newEntry f)) (by rw [ha]; exact bump_le _)
  rw [ha] at hle
  exact hle

/-- A DRAW_CLAIM lost refuses the claim of its head without a count (R74). -/
theorem handInClaim_crowded {s : State} {i : LocalHead} (h : s.crowded) (ho : s.owns i = true) (u d : Nat) :
    s.handIn (.drawClaim (s.fh + i.val) u d) = (s.frameLost (.drawClaim (s.fh + i.val) u d)).claimRefused i := by
  have hl := localOf_of_same ((frameLost_only s (.drawClaim (s.fh + i.val) u d)).keeps .resetting (by decide))
    (s.fh + i.val)
  rw [handIn_crowded h]
  simp only [State.takeLoss, hl, localOf_globalHead ho]

/-- What the loss of a DRAW_CLAIM leaves (R74, R163). -/
theorem handInClaim_crowded_spec {s : State} {i : LocalHead} (h : s.crowded) (ho : s.owns i = true) (u d : Nat) :
    let t := s.handIn (.drawClaim (s.fh + i.val) u d)
    t.claim i = (if s.mayClaim i then { s.claim i with state := .retry (s.now + 5000) } else .clear)
      ∧ t.lbi.queue = s.lbi.queue ∧ min 65535 (s.counters.txDrops + 1) ≤ t.counters.txDrops
      ∧ hasNotice t.sc.latched .txDrop = true := by
  intro t
  have ht : t = (s.frameLost (.drawClaim (s.fh + i.val) u d)).claimRefused i := handInClaim_crowded h ho u d
  have hl := frameLost_only s (.drawClaim (s.fh + i.val) u d)
  have hr := claimRefused_only (s.frameLost (.drawClaim (s.fh + i.val) u d)) i
  have hnow : (s.frameLost (.drawClaim (s.fh + i.val) u d)).now = s.now := hl.keeps .now (by decide)
  have hclaim : (s.frameLost (.drawClaim (s.fh + i.val) u d)).claim i = s.claim i :=
    hl.keeps (.claim i) (by simp [reporting])
  rw [ht, claimRefused_claim, mayClaim_of_head (hl.keeps (.head i) (by simp [reporting])), hclaim, hnow]
  refine ⟨rfl, (hr.keeps .queue (by simp)).1.trans (frameLost_queue h _), ?_, ?_⟩
  · rw [show _ = _ from hr.keeps .txDrops (by simp)]
    exact frameLost_txDrops h _
  · rw [show _ = _ from hr.keeps .latched (by simp)]
    exact latchTxDrop_has _

/-! ## The claim call -/

/-- The claim dwell of a head: its dwell, and no more than the time left to its seat (R60). -/
def State.callDwell (s : State) (i : LocalHead) : Nat :=
  min (s.head i).dwell (s.remaining i)

/-- The particulars of the claim that a call forms for a head (R70). -/
def State.particulars (s : State) (i : LocalHead) (state : ClaimState) (admitted : Bool) : Claim :=
  { state := state, units := (s.profile (s.head i).profile).f, dwell := s.callDwell i,
    extension := hasFlag (s.head i).flags .purgeAdded, admittedLocally := admitted }

/-- The flags of a head's jar after a claim call: SHORT_FLUSH where the dwell is cut (R61). -/
def State.callFlags (s : State) (i : LocalHead) : Word :=
  if s.callDwell i < (s.head i).dwell then setFlag (s.head i).flags .shortFlush else (s.head i).flags

/-- The station with those flags. -/
def State.called (s : State) (i : LocalHead) : State :=
  s.updHead i fun _ => { s.head i with flags := s.callFlags i }

theorem called_only (s : State) (i : LocalHead) : ChangesOnly [.head i] s (s.called i) :=
  updHead_only s i _

theorem called_head (s : State) (i : LocalHead) : (s.called i).head i = { s.head i with flags := s.callFlags i } :=
  State.head_updHead_same s i _

theorem called_mayClaim (s : State) (i : LocalHead) : (s.called i).mayClaim i = s.mayClaim i := by
  unfold State.mayClaim
  rw [called_head]

/-- With less time left than Dmin no claim is made, and none will be (R60). -/
theorem formClaim_tooShort {s : State} {i : LocalHead} (h : s.callDwell i < (s.profile (s.head i).profile).Dmin) :
    s.formClaim i = (s.updClaim i fun _ => .clear).updHead i fun _ => { s.head i with claimsEnded := true } := by
  have hc : claimCall (s.head i).dwell (s.profile (s.head i).profile).Dmin (s.remaining i) = none :=
    if_neg (Nat.not_le.2 h)
  unfold State.formClaim
  simp only [hc]
  exact State.updHead_congr rfl

theorem formClaim_called {s : State} {i : LocalHead} (h : (s.profile (s.head i).profile).Dmin ≤ s.callDwell i) :
    s.formClaim i = (s.called i).announce i (s.particulars i .queued false) := by
  have hc : claimCall (s.head i).dwell (s.profile (s.head i).profile).Dmin (s.remaining i) = some (s.callDwell i) :=
    if_pos h
  have hf : (if s.callDwell i < (s.head i).dwell then s.flag i .shortFlush else s) = s.called i := by
    unfold State.called State.callFlags
    split
    · exact State.updHead_congr rfl
    · exact (State.updHead_id s i).symm.trans (State.updHead_congr rfl)
  unfold State.formClaim
  simp only [hc, hf]
  rfl

/-! ## The claim announced -/

/-- The station with the claim that a call forms, before its frame is handed in (R70). -/
def State.claimFormed (s : State) (i : LocalHead) : State :=
  (s.called i).updClaim i fun _ => s.particulars i .queued false

theorem claimFormed_only (s : State) (i : LocalHead) : ChangesOnly [.head i, .claim i] s (s.claimFormed i) :=
  (called_only s i).comp (updClaim_only _ i _)

theorem claimFormed_claim (s : State) (i : LocalHead) : (s.claimFormed i).claim i = s.particulars i .queued false :=
  State.claim_updClaim_same _ i _

theorem claimFormed_head (s : State) (i : LocalHead) :
    (s.claimFormed i).head i = { s.head i with flags := s.callFlags i } :=
  called_head s i

theorem claimFormed_mayClaim (s : State) (i : LocalHead) : (s.claimFormed i).mayClaim i = s.mayClaim i :=
  called_mayClaim s i

/-- The head with its valve opened for the dwell of the call (R19). -/
def State.openedHead (s : State) (i : LocalHead) : Head :=
  { s.head i with
    phase := .flushing, valveOpen := true, valveOpenedAt := s.now, valveCloseAt := s.now + s.callDwell i * 1000,
    purgePending := (s.head i).purgePending && !hasFlag (s.head i).flags .purgeAdded,
    flags := s.withJog (s.callFlags i) }

/-- The station with a claim admitted in isolation before the head takes the admission (R85). -/
def State.claimMarked (s : State) (i : LocalHead) : State :=
  ((s.called i).writeEntry s.addr (s.fh + i.val) (s.profile (s.head i).profile).f (s.callDwell i)).updClaim i
    fun _ => s.particulars i .queued true

/-- The station with a claim admitted in isolation: its entry, the claim with its mark, the valve open (R85). -/
def State.claimOpened (s : State) (i : LocalHead) : State :=
  ((s.writeEntry s.addr (s.fh + i.val) (s.profile (s.head i).profile).f (s.callDwell i)).updClaim i
    fun _ => s.particulars i .queued true).updHead i fun _ => s.openedHead i

theorem claimOpened_only (s : State) (i : LocalHead) : ChangesOnly [.table, .claim i, .head i] s (s.claimOpened i) :=
  (writeEntry_only s _ _ _ _).comp ((updClaim_only _ i _).comp (updHead_only _ i _))

theorem claimOpened_head (s : State) (i : LocalHead) : (s.claimOpened i).head i = s.openedHead i :=
  State.head_updHead_same _ i _

theorem claimOpened_claim (s : State) (i : LocalHead) : (s.claimOpened i).claim i = s.particulars i .queued true :=
  State.claim_updClaim_same _ i _

theorem claimOpened_mayClaim (s : State) (i : LocalHead) : (s.claimOpened i).mayClaim i = false := by
  unfold State.mayClaim
  rw [claimOpened_head]
  rfl

section
variable {s : State} {i : LocalHead} (h : (s.profile (s.head i).profile).Dmin ≤ s.callDwell i)
include h

theorem formClaim_queued (hi : s.sdu.isolated = false) :
    s.formClaim i = (s.claimFormed i).handIn
      (.drawClaim (s.fh + i.val) (s.profile (s.head i).profile).f (s.callDwell i)) :=
  (formClaim_called h).trans (if_neg (by rw [show (s.called i).sdu.isolated = _ from hi]; simp))

theorem formClaim_admitted (hi : s.sdu.isolated = true)
    (ha : s.admitsIsolated (s.fh + i.val) (s.profile (s.head i).profile).f = true) (hc : s.mayClaim i = true) :
    s.formClaim i = (s.claimOpened i).handIn
      (.drawClaim (s.fh + i.val) (s.profile (s.head i).profile).f (s.callDwell i)) := by
  have hopen : (s.claimMarked i).reportAdmission i (s.callDwell i) (hasFlag (s.head i).flags .purgeAdded)
      = s.claimOpened i := by
    rw [reportAdmission_opens (s := s.claimMarked i) ((called_mayClaim s i).trans hc), show (s.claimMarked i).head i = _ from called_head s i]
    exact State.updHead_updHead ((s.writeEntry s.addr (s.fh + i.val) (s.profile (s.head i).profile).f
      (s.callDwell i)).updClaim i fun _ => s.particulars i .queued true) i
        (fun _ => { s.head i with flags := s.callFlags i }) fun _ => s.openedHead i
  exact (formClaim_called h).trans ((if_pos hi).trans ((if_pos ha).trans (congrArg (fun u : State => u.handIn _) hopen)))

theorem formClaim_refused (hi : s.sdu.isolated = true)
    (ha : ¬ s.admitsIsolated (s.fh + i.val) (s.profile (s.head i).profile).f = true) :
    s.formClaim i = (s.claimFormed i).claimDenied i :=
  (formClaim_called h).trans ((if_pos hi).trans (if_neg ha))

end

/-- The test of isolation in the words of the statement (R85). -/
theorem admitsIsolated_spec (s : State) (g f : Nat) : s.admitsIsolated g f = true ↔
    s.sdu.hold = none ∧ s.ownUnits g + f ≤ max 1 (s.setup.C / s.ncap)
      ∧ (s.sdu.table.any (fun e => e.src == s.addr && e.head == g) = true ∨ s.sdu.table.length < 64) := by
  rw [admitsIsolated_iff, tableOpen_iff]
  tauto

/-- Settles O27: the claim call forms no claim, one that is queued, or one that is decided at once, and a frame handed in
to a crowded queue is lost. -/
theorem formedClaimIsQueuedOrDecidedInIsolation : Obligations.FormedClaimIsQueuedOrDecidedInIsolation := by
  intro s i h p c g isIt own admits flags particulars claiming opened u ho full
  have hmay : s.mayClaim i = true ↔ claiming := mayClaim_iff s i
  have hadmits : s.admitsIsolated g p.f = true ↔ admits := admitsIsolated_spec s g p.f
  have hformed := claimFormed_only s i
  have hopened := claimOpened_only s i
  have hline : p.Dmin ≤ c → s.sdu.isolated = false → u = (s.claimFormed i).handIn (.drawClaim g p.f c) :=
    formClaim_queued
  have hisolated : p.Dmin ≤ c → s.sdu.isolated = true → admits → claiming → u = opened.handIn (.drawClaim g p.f c) :=
    fun hd hi ha hc => formClaim_admitted hd hi (hadmits.2 ha) (hmay.2 hc)
  have hin : ∀ m : State, m.fh = s.fh → ChangesOnly (.claim i :: reporting) m (m.handIn (.drawClaim g p.f c)) := by
    intro m hm
    have := handInClaim_only m i p.f c
    rwa [State.globalHead, hm] at this
  refine ⟨formClaim_tooShort, hline, fun hd hi hf => ?queueFull, hisolated, fun hd hi ha hc hf => ?openedFull,
    fun hd hi hr => ?queued, fun hd hi ha hc hr => ?opened, fun hd hi ha hc => ?refused⟩
  case queueFull =>
    obtain ⟨hclaim, hqueue, hdrops, hlatched⟩ := handInClaim_crowded_spec (s := s.claimFormed i) hf ho p.f c
    have hch := hin (s.claimFormed i) rfl
    rw [claimFormed_mayClaim, claimFormed_claim] at hclaim
    rw [hline hd hi]
    refine ⟨?_, (hch.keeps (.head i) (by simp [reporting])).trans (claimFormed_head s i), hqueue, hdrops, hlatched,
      (hformed.comp hch).mono (by simp [reporting])⟩
    exact hclaim.trans (if_congr hmay rfl rfl)
  case openedFull =>
    obtain ⟨hclaim, hqueue, -, hlatched⟩ := handInClaim_crowded_spec (s := s.claimOpened i) hf ho p.f c
    have hch := hin (s.claimOpened i) rfl
    have hhead := (hch.keeps (.head i) (by simp [reporting])).trans (claimOpened_head s i)
    rw [claimOpened_mayClaim] at hclaim
    rw [hisolated hd hi ha hc]
    exact ⟨hclaim, congrArg Head.phase hhead, congrArg Head.valveOpen hhead, hch.keeps .table (by simp [reporting]), hqueue,
      hlatched, (hopened.comp hch).mono (by simp [reporting])⟩
  case queued =>
    have hch := hin (s.claimFormed i) rfl
    rw [hline hd hi]
    refine ⟨?_, (hch.keeps (.head i) (by simp [reporting])).trans (claimFormed_head s i),
      (SameBus.of_only hformed (by simp [busPieces])).queues (.refl _), (hformed.comp hch).mono (by simp [reporting])⟩
    rw [handIn_room (s.claimFormed i) _ hr]
    exact claimFormed_claim s i
  case opened =>
    have hch := hin (s.claimOpened i) rfl
    rw [hisolated hd hi ha hc]
    refine ⟨?_, (hch.keeps (.head i) (by simp [reporting])).trans (claimOpened_head s i),
      hch.keeps .table (by simp [reporting]), (SameBus.of_only hopened (by simp [busPieces])).queues (.refl _),
      (hopened.comp hch).mono (by simp [reporting])⟩
    rw [show opened = s.claimOpened i from rfl, handIn_room (s.claimOpened i) _ hr]
    exact claimOpened_claim s i
  case refused =>
    have hu : u = (s.claimFormed i).claimDenied i := formClaim_refused hd hi fun h => ha (hadmits.1 h)
    have hch := claimDenied_only (s.claimFormed i) i
    rw [hu]
    refine ⟨?_, (hch.keeps (.head i) (by simp)).trans (claimFormed_head s i), claimDenied_count _ i,
      (hformed.comp hch).mono (by simp)⟩
    rw [claimDenied_claim, claimFormed_mayClaim, if_pos (hmay.2 hc), claimFormed_claim]
    rfl

end Sys2Proof.Machine
end

section
/-!
A request is deferred behind a pending STOP only: what a request, a withdrawal and a grant make of a head's requests,
what keeps the law through every step, and the statement (O34).
-/
namespace Sys2Proof.Machine

/-! ## The law at a head -/

/-- The law at one head's requests (R97). -/
def DriveSlot.DefersBehindStop (d : DriveSlot) : Prop :=
  d.deferred ≠ none → d.pending = some .stop ∧ d.deferred ≠ some .stop

theorem request_stop_of_stop {d : DriveSlot} (h : d.pending = some .stop) : d.request .stop = d := by
  simp [DriveSlot.request, h]

theorem request_behind_stop {d : DriveSlot} (h : d.pending = some .stop) {r : DriveRequest} (hr : r ≠ .stop) :
    d.request r = { d with deferred := some r } := by
  cases r with
  | stop => exact absurd rfl hr
  | _ => simp [DriveSlot.request, h]

/-- Nothing is deferred: the law says nothing more. -/
theorem DriveSlot.defers_of_none {d : DriveSlot} (h : d.deferred = none) : d.DefersBehindStop :=
  fun hd => absurd h hd

theorem DriveSlot.DefersBehindStop.deferred_none {d : DriveSlot} (h : d.DefersBehindStop)
    (hp : d.pending ≠ some .stop) : d.deferred = none :=
  not_not.1 fun hd => hp (h hd).1

theorem DriveSlot.DefersBehindStop.request {d : DriveSlot} (h : d.DefersBehindStop) (r : DriveRequest) :
    (d.request r).DefersBehindStop := by
  by_cases hp : d.pending = some .stop
  · by_cases hr : r = .stop
    · rw [hr, request_stop_of_stop hp]
      exact h
    · rw [request_behind_stop hp hr]
      exact fun _ => ⟨hp, by simpa using hr⟩
  · rw [request_notStop hp]
    exact defers_of_none (h.deferred_none hp)

theorem isKind_some_stop {k : DriveKind} (h : k ≠ .stop) : isKind k (some .stop) = false :=
  decide_eq_false h.symm

/-- No head withdraws a STOP, and the withdrawal of another kind leaves a pending STOP (R98). -/
theorem DriveSlot.DefersBehindStop.withdraw {d : DriveSlot} (h : d.DefersBehindStop) {k : DriveKind} (hk : k ≠ .stop) :
    (d.withdraw k).DefersBehindStop := by
  by_cases hd : d.deferred = none
  · exact defers_of_none (by simp [DriveSlot.withdraw, hd])
  · obtain ⟨hp, hs⟩ := h hd
    refine fun _ => ⟨?_, ?_⟩
    · simp [DriveSlot.withdraw, hp, isKind_some_stop hk]
    · simp only [DriveSlot.withdraw]
      split
      · simp
      · exact hs

/-- A grant leaves nothing deferred: behind a STOP what was deferred becomes pending (R97). -/
theorem DriveSlot.DefersBehindStop.grant {d : DriveSlot} (h : d.DefersBehindStop) : d.grant.DefersBehindStop := by
  unfold DriveSlot.grant
  split
  · exact defers_of_none rfl
  all_goals exact defers_of_none (h.deferred_none (by simp [*]))

/-! ## Carrying the law -/

/-- From `s` to `t` the law is kept. -/
def KeepsDeferral (s t : State) : Prop :=
  s.deferredBehindStop → t.deferredBehindStop

theorem deferredBehindStop_iff {s : State} : s.deferredBehindStop ↔ ∀ i, (s.slot i).DefersBehindStop :=
  Iff.rfl

theorem KeepsDeferral.refl (s : State) : KeepsDeferral s s :=
  id

theorem KeepsDeferral.trans {s t u : State} (h₁ : KeepsDeferral s t) (h₂ : KeepsDeferral t u) : KeepsDeferral s u :=
  h₂ ∘ h₁

theorem KeepsDeferral.ite {c : Prop} [Decidable c] {s t u : State} (h₁ : c → KeepsDeferral s t)
    (h₂ : ¬c → KeepsDeferral s u) : KeepsDeferral s (if c then t else u) := by
  split
  · exact h₁ ‹_›
  · exact h₂ ‹_›

theorem KeepsDeferral.eachOwned (s : State) {act : LocalHead → State → State} (h : ∀ i t, KeepsDeferral t (act i t)) :
    KeepsDeferral s (s.eachOwned act) :=
  fun hs => foldl_keeps (P := State.deferredBehindStop) hs fun i _ t => h i t

/-- What changes no head's requests keeps the law. -/
theorem KeepsDeferral.of_only {ps : List Piece} {s t : State} (h : ChangesOnly ps s t) (hd : ∀ i, .slot i ∉ ps) :
    KeepsDeferral s t := fun hs i => by
  rw [show t.slot i = s.slot i from h.keeps (.slot i) (hd i)]
  exact hs i

theorem updSlot_deferral (s : State) (i : LocalHead) {f : DriveSlot → DriveSlot}
    (hf : ∀ d : DriveSlot, d.DefersBehindStop → (f d).DefersBehindStop) : KeepsDeferral s (s.updSlot i f) := by
  intro hs
  rw [deferredBehindStop_iff] at hs ⊢
  intro j
  by_cases hj : j = i
  · rw [hj, State.slot_updSlot_same]
    exact hf _ (hs i)
  · rw [State.slot_updSlot_other s hj]
    exact hs j

theorem request_deferral (s : State) (i : LocalHead) (r : DriveRequest) : KeepsDeferral s (s.request i r) :=
  updSlot_deferral s i fun _ h => h.request r

theorem withdraw_deferral (s : State) (i : LocalHead) {k : DriveKind} (hk : k ≠ .stop) :
    KeepsDeferral s (s.withdraw i k) :=
  (updSlot_deferral s i fun _ h => h.withdraw hk).trans (.of_only (detach_only _ i _) (by simp))

/-- The drive link's reset values hold no request (R90). -/
theorem deferral_of_atReset {s : State} (h : s.dlc = .atReset) : s.deferredBehindStop := by
  rw [deferredBehindStop_iff]
  intro i
  unfold State.slot
  rw [h]
  exact DriveSlot.defers_of_none (by simp [Dlc.atReset, PerHead.get_all, DriveSlot.empty])

/-! ## The head cycle -/

theorem finish_deferral (s : State) (i : LocalHead) (o : JarOutcome) (torque angle : Nat) :
    KeepsDeferral s (s.finish i o torque angle) :=
  .of_only (finish_only s i o torque angle) (by simp [finishPieces, handOffPieces, reporting])

theorem updHead_deferral (s : State) (i : LocalHead) (f : Head → Head) : KeepsDeferral s (s.updHead i f) :=
  .of_only (updHead_only s i f) (by simp)

theorem markJog_deferral (s : State) (i : LocalHead) : KeepsDeferral s (s.markJog i) :=
  .of_only (markJog_only s i) (by simp)

theorem closeOut_deferral (s : State) (i : LocalHead) : KeepsDeferral s (s.closeOut i) :=
  (withdraw_deferral s i (by simp)).trans ((updHead_deferral _ i _).trans ((markJog_deferral _ i).trans
    ((finish_deferral _ i _ _ _).trans (.of_only (driveFailed_only _ i) (by simp [reporting])))))

theorem beginCycle_deferral (s : State) (i : LocalHead) (r : Option JarRecord) : KeepsDeferral s (s.beginCycle i r) :=
  (KeepsDeferral.ite (fun _ => .of_only (underrun_only s) (by simp [reporting])) fun _ => .refl s).trans
    ((updHead_deferral _ i _).trans (request_deferral _ i _))

theorem idlePass_deferral (s : State) (i : LocalHead) (jar : Bool) : KeepsDeferral s (s.idlePass i jar) := by
  have hc : ∀ (t : State) (f : Counters → Counters), KeepsDeferral t (t.count f) := fun _ _ h => h
  have hr : ∀ (t : State) (r : JarReport), KeepsDeferral t (t.reportJar i false r) := fun t r =>
    .of_only (reportJar_only t i false r) (by simp [reporting])
  have ht : KeepsDeferral s (s.takeRecords (s.globalHead i)) := id
  exact .ite (fun _ => ht.trans (hc _ _)) fun _ => .ite (fun _ => ht.trans ((hc _ _).trans (hr _ _))) fun _ =>
    .ite (fun _ => ht.trans ((hc _ _).trans (beginCycle_deferral _ i _))) fun _ => ht.trans ((hc _ _).trans (hr _ _))

theorem infeedPass_deferral (s : State) (i : LocalHead) (jar : Bool) : KeepsDeferral s (s.infeedPass i jar) := by
  unfold State.infeedPass
  split
  · exact idlePass_deferral s i jar
  · exact (closeOut_deferral s i).trans (idlePass_deferral _ i jar)
  all_goals exact .refl s

theorem capPick_deferral (s : State) (i : LocalHead) (cap : Bool) : KeepsDeferral s (s.capPick i cap) :=
  .ite (fun _ => .ite (fun _ => (markJog_deferral s i).trans (updHead_deferral _ i _)) fun _ =>
    (markJog_deferral s i).trans ((updHead_deferral _ i _).trans ((withdraw_deferral _ i (by simp)).trans
      (finish_deferral _ i _ _ _)))) fun _ => .refl s

theorem flushStart_deferral (s : State) (i : LocalHead) : KeepsDeferral s (s.flushStart i) := by
  have hp : KeepsDeferral s ((s.markJog i).setPhase i .claiming) :=
    (markJog_deferral s i).trans (updHead_deferral _ i _)
  exact .ite (fun _ => .ite (fun _ => hp.trans (updHead_deferral _ i _)) fun _ => .ite
    (fun _ => hp.trans (.of_only (formClaim_only _ i) (by simp [claimPieces, reporting]))) fun _ => hp) fun _ => .refl s

theorem seat_deferral (s : State) (i : LocalHead) : KeepsDeferral s (s.seat i) := by
  have hw : KeepsDeferral s ((s.markJog i).withdrawClaim i) :=
    (markJog_deferral s i).trans (.of_only (withdrawClaim_only _ i) (by simp))
  unfold State.seat
  split
  · refine KeepsDeferral.trans ?_ (updHead_deferral _ i _)
    have hv := KeepsDeferral.of_only (closeValve_only (((s.markJog i).withdrawClaim i).flag i .shortFlush) i)
      (by simp [reporting])
    exact .ite (fun _ => hw.trans ((updHead_deferral _ i _).trans hv)) fun _ => hw
  · exact hw.trans ((updHead_deferral _ i _).trans (updHead_deferral _ i _))
  all_goals exact .refl s

theorem driveLate_deferral (s : State) (i : LocalHead) : KeepsDeferral s (s.driveLate i) :=
  (updSlot_deferral s i fun _ h => h.withdraw (by simp)).trans (updHead_deferral _ i _)

theorem torqueStart_deferral (s : State) (i : LocalHead) : KeepsDeferral s (s.torqueStart i) :=
  .ite (fun _ => KeepsDeferral.trans
    (.ite (fun _ => markJog_deferral s i) fun _ => (markJog_deferral s i).trans (driveLate_deferral _ i))
    ((request_deferral _ i _).trans (updHead_deferral _ i _))) fun _ => .refl s

theorem release_deferral (s : State) (i : LocalHead) : KeepsDeferral s (s.release i) :=
  .ite (fun _ => KeepsDeferral.trans
    (.ite (fun _ => (markJog_deferral s i).trans (updHead_deferral _ i _)) fun _ => markJog_deferral s i)
    ((request_deferral _ i _).trans (updHead_deferral _ i _))) fun _ => .refl s

theorem raiseEvent_deferral (jp cp : BitVec 4) (i : LocalHead) (s : State) :
    KeepsDeferral s (State.raiseEvent jp cp i s) := by
  unfold State.raiseEvent
  split
  · next e _ =>
    cases e with
    | infeed => exact infeedPass_deferral s i _
    | capPick => exact capPick_deferral s i _
    | flushStart => exact flushStart_deferral s i
    | seat => exact seat_deferral s i
    | torqueStart => exact torqueStart_deferral s i
    | release => exact release_deferral s i
  · exact .refl s

theorem abortDrive_deferral (s : State) (i : LocalHead) (p : Phase) : KeepsDeferral s (s.abortDrive i p) := by
  cases p with
  | torquing => exact (KeepsDeferral.of_only (detach_only s i _) (by simp)).trans (request_deferral _ i _)
  | _ => exact withdraw_deferral s i (by simp)

theorem abortHead_deferral (i : LocalHead) (s : State) : KeepsDeferral s (State.abortHead i s) := by
  by_cases hp : (s.head i).phase = .idle
  · rw [abortHead_idle hp]
    exact .refl s
  · rw [abortHead_open hp]
    exact (KeepsDeferral.of_only (abortSteam_only s i) (by simp [reporting])).trans
      ((abortDrive_deferral _ i _).trans (finish_deferral _ i _ _ _))

theorem abortAll_deferral (s : State) : KeepsDeferral s s.abortAll :=
  .eachOwned s abortHead_deferral

/-! ## Counts and marks -/

theorem latch_deferral (s : State) (n : Notice) : KeepsDeferral s (s.latch n) :=
  .of_only (latch_only s n) (by simp [reporting])

theorem crossing_deferral (s : State) (jp cp : BitVec 4) : KeepsDeferral s (s.crossing jp cp) :=
  (KeepsDeferral.ite (fun _ => .of_only (setTtu_only s _) (by simp)) fun _ => .refl s).trans
    ((KeepsDeferral.eachOwned _ fun i t => raiseEvent_deferral jp cp i t).trans
      (.of_only (recheckClaims_only _) (by decide)))

theorem forwardMove_deferral (s : State) (jp cp : BitVec 4) : KeepsDeferral s (s.forwardMove jp cp) := by
  have ht : ∀ u, KeepsDeferral s { s with ttu := u } := fun u => .of_only (setTtu_only s u) (by simp)
  exact .ite (fun _ => (ht _).trans (crossing_deferral _ jp cp)) fun _ => ht _

theorem forwardCount_deferral (s : State) (jp cp : BitVec 4) : KeepsDeferral s (s.forwardCount jp cp) := by
  have hd : KeepsDeferral s (s.setDir .forward) := .of_only (setDir_only s _) (by simp)
  exact .ite (fun _ => hd.trans (forwardMove_deferral _ jp cp)) fun _ => hd

theorem reverseCount_deferral (s : State) : KeepsDeferral s s.reverseCount := by
  have hd : KeepsDeferral s (s.setDir .reverse) := .of_only (setDir_only s _) (by simp)
  have hb : ∀ (t : State) (d : Direction), KeepsDeferral t (t.beginReverse d) := fun t d =>
    .of_only (beginReverse_only t d) (by decide)
  exact .ite (fun _ => hd.trans ((KeepsDeferral.of_only (setTtu_only _ _) (by simp)).trans
    ((abortAll_deferral _).trans (hb _ _)))) fun _ => hd.trans (hb _ _)

/-- A fault of the encoder or of the zero mark aborts every cycle and then sets the turret (R3, R7). -/
theorem fault_deferral (s : State) (f : Ttu → Ttu) :
    KeepsDeferral s { (s.latch .encoderFault).abortAll with ttu := f (s.latch .encoderFault).abortAll.ttu } :=
  (latch_deferral s _).trans ((abortAll_deferral _).trans (.of_only (setTtu_only _ _) (by simp)))

theorem illegalStep_deferral (s : State) : KeepsDeferral s s.illegalStep :=
  .ite (fun _ => fault_deferral s fun t => { t with referenced := false, lag := 0, pitchCount := 0 })
    fun _ => latch_deferral s _

theorem correctForward_deferral (jp cp : BitVec 4) (n : Nat) (s : State) :
    KeepsDeferral s (State.correctForward jp cp n s) := by
  induction n generalizing s with
  | zero => exact .refl s
  | succ n ih => exact (forwardMove_deferral s jp cp).trans (ih _)

theorem zeroMark_deferral (s : State) (jp cp : BitVec 4) : KeepsDeferral s (s.zeroMark jp cp) := by
  have ht : ∀ u, KeepsDeferral s { s with ttu := u } := fun u => .of_only (setTtu_only s u) (by simp)
  exact .ite (fun _ => ht _) fun _ => .ite (fun _ => fault_deferral s Ttu.zeroed) fun _ =>
    .ite (fun _ => .refl s) fun _ => .ite (fun _ => ht _) fun _ => correctForward_deferral jp cp _ s

/-! ## The drive link -/

theorem driveGrant_deferral (s : State) : KeepsDeferral s s.driveGrant := by
  unfold State.driveGrant
  split
  · split
    · exact (updSlot_deferral s _ fun _ h => h.grant).trans (.of_only (setCurrent_only _ _) (by simp))
    · exact .refl s
  · exact .refl s

theorem resultWaitExpiry_deferral (s : State) (i : LocalHead) : KeepsDeferral s (s.resultWaitExpiry i) := by
  unfold State.resultWaitExpiry
  split
  · have hw : KeepsDeferral s (s.updSlot i fun d => { d with resultWait := none }) := updSlot_deferral s i fun _ h => h
    exact .ite (fun _ => hw.trans (request_deferral _ i _)) fun _ => .refl s
  · exact .refl s

theorem applyCompletion_deferral (s : State) (i : LocalHead) (k : DriveKind) (c : ReplyClass) (torque angle : Nat) :
    KeepsDeferral s (s.applyCompletion i k c torque angle) := by
  have h := markJog_deferral s i
  unfold State.applyCompletion
  dsimp only
  split
  · exact h.trans (updHead_deferral _ i _)
  · exact h.trans (updHead_deferral _ i _)
  · exact h.trans ((updHead_deferral _ i _).trans (finish_deferral _ i _ _ _))
  · exact h.trans ((updHead_deferral _ i _).trans (finish_deferral _ i _ _ _))
  · exact h.trans (updSlot_deferral _ i fun _ hd => hd)
  · exact h
  · exact h
  · exact h
  · exact h
  · exact .refl s

theorem transactionComplete_deferral (s : State) (reply : BitVec 48) :
    KeepsDeferral s (s.transactionComplete reply) := by
  unfold State.transactionComplete
  split
  · next t _ =>
    have h : KeepsDeferral s (({ s with dlc := { s.dlc with current := none } } : State).countCompletion t.head
        (judgeReply t.request.kind reply)) :=
      .of_only ((setCurrent_only s none).comp (countCompletion_only _ _ _)) (by simp [reporting])
    exact .ite (fun _ => .ite (fun _ => h.trans (applyCompletion_deferral _ _ _ _ _ _)) fun _ => h) fun _ => .refl s
  · exact .refl s

/-! ## Joining and resets -/

/-- A station that leaves JOINING begins with no request (R90). -/
theorem tryJoin_deferral (s : State) : KeepsDeferral s s.tryJoin := by
  have hj : KeepsDeferral s s.joinedState := fun _ => deferral_of_atReset rfl
  exact .ite (fun _ => hj.trans (.of_only ((changeMask_only _ _).comp (sendJoin_only _)) (by decide))) fun _ => .refl s

theorem joinWindowPass_deferral (s : State) : KeepsDeferral s s.joinWindowPass :=
  .ite (fun _ => (KeepsDeferral.of_only (setWindow_only s _) (by simp)).trans (tryJoin_deferral _)) fun _ => .refl s

theorem takeJoin_deferral (s : State) (src : Address) (p : BitVec 24) : KeepsDeferral s (s.takeJoin src p) := by
  have he : ∀ r, KeepsDeferral s (s.enterRoster src r p) := fun r => by
    have hr : KeepsDeferral s { s with sc := { s.sc with roster := writeRoster (s.heardEntry src r p) s.sc.roster } } :=
      id
    have hl : ∀ (t : State) (b : Bool), KeepsDeferral t (if b then t.latch .headMapConflict else t) :=
      fun t _ => .ite (fun _ => latch_deferral t _) fun _ => .refl t
    have hj : ∀ (t : State) (b : Bool), KeepsDeferral t (if b then t.sendJoin else t) :=
      fun t _ => .ite (fun _ => .of_only (sendJoin_only t) (by decide)) fun _ => .refl t
    have hv := fun b c => hr.trans ((hl _ b).trans (hj _ c))
    exact .ite (fun _ => (hv _ _).trans (tryJoin_deferral _)) fun _ => hv _ _
  unfold State.takeJoin
  refine .ite (fun _ => .refl s) fun _ => ?_
  split
  · exact .ite (fun _ => he _) fun _ => .refl s
  · exact .refl s

theorem latchInvalid_deferral (s : State) (c : ConfigStatus) : KeepsDeferral s (s.latchInvalid c) :=
  .of_only (latchInvalid_only s c) (by decide)

theorem takeSetup_deferral (s : State) (src : Address) (p : BitVec 64) : KeepsDeferral s (s.takeSetup src p) := by
  unfold State.takeSetup
  refine .ite (fun _ => .refl s) fun _ => .ite (fun _ => latch_deferral s _) fun _ => ?_
  split
  · exact .refl s
  · exact (KeepsDeferral.of_only (setSetupParts_only s _) (by simp)).trans
      ((latchInvalid_deferral _ _).trans (tryJoin_deferral _))

theorem takeProfile_deferral (s : State) (src : Address) (p : BitVec 64) : KeepsDeferral s (s.takeProfile src p) := by
  unfold State.takeProfile
  refine .ite (fun _ => .refl s) fun _ => .ite (fun _ => latch_deferral s _) fun _ =>
    .ite (fun _ => .refl s) fun _ => ?_
  dsimp only
  split
  · exact .refl s
  · exact (KeepsDeferral.of_only (setProfiles_only s _) (by simp)).trans
      ((latchInvalid_deferral _ _).trans (tryJoin_deferral _))

theorem heard_deferral (s : State) (src : Address) : KeepsDeferral s (s.frameEnd.heardOther src) :=
  .of_only ((frameEnd_only s).comp (heardOther_only _ src)) (by decide)

theorem receive_deferral (s : State) (src : Address) {owner : State → State} (ho : ∀ t, KeepsDeferral t (owner t)) :
    KeepsDeferral s (s.receive src owner) :=
  .ite (fun _ => (heard_deferral s src).trans (ho _)) fun _ => .refl s

theorem receiveJoin_deferral (s : State) (src : Address) (p : BitVec 24) : KeepsDeferral s (s.receiveJoin src p) :=
  .ite (fun _ => .of_only ((completed_only s).comp (joinEcho_only _)) (by decide))
    fun _ => receive_deferral s src (takeJoin_deferral · src p)

/-- A reset leaves no request at any head (R90). -/
theorem resetEnd_deferral (s : State) (straps : Straps) : KeepsDeferral s (s.resetEnd straps) :=
  .ite (fun _ => .refl s) fun _ =>
    .ite (fun _ _ => deferral_of_atReset rfl) fun _ _ => deferral_of_atReset rfl

/-! ## Every step -/

theorem fire_deferral (e : TimedEvent) (s : State) : KeepsDeferral s (e.fire s) := by
  cases e with
  | pitchTimeout => exact .of_only (pitchTimeout_only s) (by decide)
  | coldStop => exact .of_only (coldStop_only s) (by decide)
  | valveClose i => exact .of_only (valveCloseTime_only s i) (by simp [reporting])
  | claimRetry i => exact .of_only (claimRetry_only s i) (by simp [claimPieces, reporting])
  | drawExpiry src g => exact .of_only (drawEntryExpiry_only s src g) (by decide)
  | holdExpiry => exact .of_only (holdExpiry_only s) (by decide)
  | holdRenewal => exact .of_only (holdRenewal_only s) (by decide)
  | stloSample => exact .of_only (stloSample_only s) (by decide)
  | silence => exact .of_only (silenceThreshold_only s) (by decide)
  | relistenEnd => exact .of_only (relistenEnd_only s) (by decide)
  | transactionEnd => exact transactionComplete_deferral s _
  | driveGrant => exact driveGrant_deferral s
  | resultWait i => exact resultWaitExpiry_deferral s i
  | verdictExpiry => exact .of_only (verdictExpiry_only s) (by decide)
  | joinTimer => exact .of_only (joinTimer_only s) (by decide)
  | joinWindow => exact joinWindowPass_deferral s

theorem ifJoined_deferral (s : State) {f : State → State} (hf : KeepsDeferral s (f s)) :
    KeepsDeferral s (s.ifJoined f) :=
  .ite (fun _ => hf) fun _ => .refl s

theorem commandEffect_deferral (c : Instr) (s : State) : KeepsDeferral s (commandEffect c s) := by
  cases c with
  | forwardCount dt jp cp => exact ifJoined_deferral s (forwardCount_deferral s jp cp)
  | reverseCount dt => exact ifJoined_deferral s (reverseCount_deferral s)
  | illegalQuadratureStep dt => exact ifJoined_deferral s (illegalStep_deferral s)
  | zeroMark dt jp cp => exact ifJoined_deferral s (zeroMark_deferral s jp cp)
  | pitchTimeout dt => exact fire_deferral .pitchTimeout s
  | coldStop dt => exact fire_deferral .coldStop s
  | valveCloseTime dt i => exact fire_deferral (.valveClose i) s
  | jarRecord dt src p =>
    exact .of_only (receive_only s src (fun t => t.takeRecord src p) (takeRecord_only · src p)) (by decide)
  | drawClaim dt src p =>
    exact .ite (fun _ => .of_only ((completed_only s).comp (claimEcho_only _ p)) (by decide))
      fun _ => .of_only (receive_only s src _ (peerClaim_only · src p)) (by decide)
  | drawEnd dt src p =>
    exact .of_only (receiveOr_only s src _ _ (fun t => t.drawEndEcho p.toNat) _ (drawEndEcho_only · p.toNat)
      (peerDrawEnd_only · src p.toNat)) (by decide)
  | steamHold dt src p =>
    exact .of_only (receiveOr_only s src _ _ _ _ (takeHold_only · .own p.toNat) (takeHold_only · .peer p.toNat))
      (by decide)
  | claimRetry dt i => exact fire_deferral (.claimRetry i) s
  | drawEntryExpiry dt src head => exact fire_deferral (.drawExpiry src head) s
  | holdExpiry dt => exact fire_deferral .holdExpiry s
  | holdRenewal dt => exact fire_deferral .holdRenewal s
  | stloFall r => exact .of_only (stloFall_only s r.held) (by decide)
  | stloRise r => exact .of_only (stloRise_only s r.held) (by decide)
  | silenceThreshold dt => exact fire_deferral .silence s
  | relistenEnd dt => exact fire_deferral .relistenEnd s
  | driveGrant dt => exact driveGrant_deferral s
  | driveTransactionComplete dt reply => exact transactionComplete_deferral s reply
  | resultWaitExpiry dt i => exact resultWaitExpiry_deferral s i
  | verdict dt src p =>
    exact .of_only (receive_only s src (fun t => t.takeVerdict src p) (takeVerdict_only · src p)) (by decide)
  | verdictExpiry dt => exact fire_deferral .verdictExpiry s
  | headReturn dt src p =>
    exact .of_only (receive_only s src (fun t => t.takeReturn src p) (takeReturn_only · src p)) (by decide)
  | lineMode dt src p =>
    exact .of_only (receive_only s src (fun t => t.takeLineMode src p) (takeLineMode_only · src p)) (by decide)
  | lineClear dt src p =>
    exact .of_only (receive_only s src (fun t => t.takeLineClear src p) (takeLineClear_only · src p)) (by decide)
  | join dt src p => exact receiveJoin_deferral s src p
  | joinTimer dt => exact fire_deferral .joinTimer s
  | joinWindowPass dt => exact joinWindowPass_deferral s
  | setup dt src p => exact receive_deferral s src (takeSetup_deferral · src p)
  | profile dt src p => exact receive_deferral s src (takeProfile_deferral · src p)
  | noticeClear dt src p =>
    exact .of_only (receive_only s src (fun t => t.takeNoticeClear src p) (takeNoticeClear_only · src p)) (by decide)
  | noticeMaskSet dt src p =>
    exact .of_only (receive_only s src (fun t => t.takeMaskSet src p) (takeMaskSet_only · src p)) (by decide)
  | noticeMaskClear dt src p =>
    exact .of_only (receive_only s src (fun t => t.takeMaskClear src p) (takeMaskClear_only · src p)) (by decide)
  | counterRequest dt src p =>
    exact .of_only (receive_only s src (fun t => t.takeRequest src p) (takeRequest_only · src p)) (by decide)
  | frameContentionStart dt => exact .of_only (contentionStart_only s) (by decide)
  | lostContention r => exact .of_only (lostContention_only s r.bit r.level) (by decide)
  | transmitError r => exact .of_only (transmitError_only s r.bit r.level) (by decide)
  | badFrameReceived dt r => exact .of_only (badReceived_only s r) (by decide)
  | unownedFrame dt src kind payload => exact .of_only (receiveUnowned_only s src kind.toNat payload) (by decide)
  | busIdleSeen dt => exact .of_only (busIdleSeen_only s) (by decide)
  | supplyLow dt => exact fun _ => deferral_of_atReset rfl
  | resetPin dt => exact fun _ => deferral_of_atReset rfl
  | resetEnd dt addr hcPins fh => exact resetEnd_deferral s _
  | startBit dt => exact .of_only (startBit_only s) (by decide)
  | contentionWon dt => exact .of_only (contentionWon_only s) (by decide)
  | joinEcho dt => exact .of_only (receiveJoinEcho_only s) (by decide)

/-- Settles O34: a request by what is pending, and the law kept by the clock, every timed row and every command's
effect. -/
theorem requestsReplaceAllButAStop : Obligations.RequestsReplaceAllButAStop :=
  ⟨fun _ r => ⟨fun h => request_notStop h r, fun h hr => hr ▸ request_stop_of_stop h,
      fun h hr => request_behind_stop h hr⟩,
    keptByStep_of_effects (fun _ _ h => h) (fun _ _ _ h => h) fire_deferral fun c s _ => commandEffect_deferral c s⟩

end Sys2Proof.Machine
end

section
/-!
The words of the drive link: a command's bytes and their checksum, the order in which bits are shifted, the fields of a
reply and its judgement (O30).
-/
namespace Sys2Proof.Machine

/-! ## The command -/

/-- The sum of some bytes, as a number. -/
theorem foldl_add_toNat (l : List Byte) (b : Byte) :
    (l.foldl (· + ·) b).toNat = (b.toNat + (l.map (·.toNat)).sum) % 256 := by
  induction l generalizing b with
  | nil => simp [Nat.mod_eq_of_lt b.isLt]
  | cons x xs ih =>
    rw [List.foldl_cons, ih, BitVec.toNat_add, List.map_cons, List.sum_cons]
    omega

/-- The checksum brings the sum of the bytes to 0 modulo 256 (R184). -/
theorem sum_with_check (l : List Byte) :
    ((l ++ [-(l.foldl (· + ·) (0 : Byte))]).map BitVec.toNat).sum % 256 = 0 := by
  have h : (l.foldl (· + ·) (0 : Byte)).toNat = (l.map BitVec.toNat).sum % 256 := by
    simpa using foldl_add_toNat l 0
  rw [List.map_append, List.sum_append, List.map_singleton, List.sum_singleton, BitVec.toNat_neg, h]
  omega

/-- The kind code and the group of a request, ahead of the checksum (R184). -/
def DriveRequest.body (r : DriveRequest) : List Byte :=
  [BitVec.ofNat 8 r.kind.code, BitVec.ofNat 8 (r.group / 2 ^ 24), BitVec.ofNat 8 (r.group / 2 ^ 16),
   BitVec.ofNat 8 (r.group / 2 ^ 8), BitVec.ofNat 8 r.group]

/-- The last byte of a command (R184). -/
def DriveRequest.check (r : DriveRequest) : Byte :=
  -(r.body.foldl (· + ·) 0)

theorem command_eq (r : DriveRequest) : r.command = r.body ++ [r.check] :=
  rfl

theorem command_sum (r : DriveRequest) : (r.command.map (·.toNat)).sum % 256 = 0 :=
  sum_with_check r.body

/-- The number that a SETUP's kind code and fields make, set side by side (R184). -/
theorem setup_fields_toNat {torque speed limit : Nat} (ht : torque < 1024) (hs : speed < 1024) (hl : limit < 4096) :
    ((1 : BitVec 8) ++ BitVec.ofNat 10 torque ++ BitVec.ofNat 10 speed ++ BitVec.ofNat 12 limit).toNat
      = 2 ^ 32 + (DriveRequest.setup torque speed limit).group := by
  simp only [BitVec.toNat_append, BitVec.toNat_ofNat, DriveRequest.group]
  rw [Nat.mod_eq_of_lt (a := torque) (by omega), Nat.mod_eq_of_lt (a := speed) (by omega),
    Nat.mod_eq_of_lt (a := limit) (by omega), ← Nat.shiftLeft_add_eq_or_of_lt (by omega),
    ← Nat.shiftLeft_add_eq_or_of_lt (by omega), ← Nat.shiftLeft_add_eq_or_of_lt (by omega)]
  simp only [Nat.shiftLeft_eq, show (1 : BitVec 8).toNat = 1 from rfl]
  omega

theorem setup_body {torque speed limit : Nat} (ht : torque < 1024) (hs : speed < 1024) (hl : limit < 4096) :
    (DriveRequest.setup torque speed limit).body = bytesOf 5 ((1 : BitVec 8) ++ BitVec.ofNat 10 torque
      ++ BitVec.ofNat 10 speed ++ BitVec.ofNat 12 limit).toNat := by
  have hg : (DriveRequest.setup torque speed limit).group < 2 ^ 32 := by
    simp only [DriveRequest.group]
    omega
  rw [setup_fields_toNat ht hs hl]
  generalize hgroup : (DriveRequest.setup torque speed limit).group = g at hg
  simp only [DriveRequest.body, hgroup, bytesOf, List.range, List.range.loop, List.map_cons, List.map_nil, byteOf,
    List.cons.injEq, and_true, DriveRequest.kind, DriveKind.code]
  refine ⟨?_, ?_, ?_, ?_, ?_⟩ <;>
    · apply BitVec.eq_of_toNat_eq
      simp only [BitVec.toNat_ofNat]
      omega

theorem driveCode_eq (k : DriveKind) : k.code = [DriveKind.setup, .start, .result, .stop].idxOf k + 1 := by
  cases k <;> rfl

/-! ## Bits in order -/

theorem bitsOf_getElem? (m v n : Nat) : (bitsOf m v)[n]? = if n < m then some (v.testBit (m - 1 - n)) else none := by
  induction m generalizing n with
  | zero => simp [bitsOf]
  | succ m ih =>
    cases n with
    | zero => simp [bitsOf]
    | succ n =>
      simp only [bitsOf, List.getElem?_cons_succ, ih]
      rw [show m + 1 - 1 - (n + 1) = m - 1 - n by omega]
      simp

theorem bitsOf_length (m v : Nat) : (bitsOf m v).length = m := by
  induction m with
  | zero => rfl
  | succ m ih => simp [bitsOf, ih]

theorem payloadBits_cons (b : Byte) (bs : List Byte) : payloadBits (b :: bs) = bitsOf 8 b.toNat ++ payloadBits bs :=
  rfl

theorem payloadBits_length (bs : List Byte) : (payloadBits bs).length = 8 * bs.length := by
  induction bs with
  | nil => rfl
  | cons b bs ih =>
    rw [payloadBits_cons, List.length_append, bitsOf_length, ih, List.length_cons]
    omega

/-- Bit `n` of some bytes is bit `n % 8` of byte `n / 8`, counted from the most significant (R183). -/
theorem payloadBits_getElem? (bs : List Byte) (n : Nat) :
    (payloadBits bs)[n]? = (bs[n / 8]?).map fun b => b.getLsbD (7 - n % 8) := by
  induction bs generalizing n with
  | nil => simp [payloadBits]
  | cons b bs ih =>
    rw [payloadBits_cons]
    by_cases hn : n < 8
    · rw [List.getElem?_append_left (by rw [bitsOf_length]; exact hn), bitsOf_getElem?, if_pos hn,
        Nat.div_eq_of_lt hn, Nat.mod_eq_of_lt hn]
      rfl
    · have hd : n / 8 = (n - 8) / 8 + 1 := by omega
      have hm : n % 8 = (n - 8) % 8 := by omega
      rw [List.getElem?_append_right (by rw [bitsOf_length]; omega), bitsOf_length, ih, hd, hm,
        List.getElem?_cons_succ]

/-- The bits read last are the lowest of the reply (R184). -/
theorem replyOfBits_reverse_getLsbD (l : List Bool) {j : Nat} (hj : j < 48) :
    (replyOfBits l.reverse).getLsbD j = l[j]?.getD false := by
  induction l generalizing j with
  | nil => simp [replyOfBits]
  | cons b l ih =>
    have hs : replyOfBits (b :: l).reverse
        = (replyOfBits l.reverse <<< 1) ||| (BitVec.ofBool b).setWidth 48 := by
      simp [replyOfBits]
    rw [hs]
    cases j with
    | zero => simp
    | succ j =>
      have hl := ih (show j < 48 by omega)
      rw [BitVec.getLsbD_or, BitVec.getLsbD_shiftLeft]
      simp [hj, hl]

theorem replyOfBits_getElem? {bits : List Bool} (h : bits.length = 48) {n : Nat} (hn : n < 48) :
    bits[n]? = some ((replyOfBits bits).getLsbD (47 - n)) := by
  have hr := replyOfBits_reverse_getLsbD bits.reverse (show 47 - n < 48 by omega)
  rw [List.reverse_reverse, List.getElem?_reverse (by omega), h, show 48 - 1 - (47 - n) = n by omega,
    List.getElem?_eq_getElem (by omega)] at hr
  rw [hr, List.getElem?_eq_getElem (by omega)]
  rfl

/-! ## The fields of a reply -/

theorem field_eq {n : Nat} (p : BitVec n) (lo len : Nat) : field p lo len = p.toNat / 2 ^ lo % 2 ^ len := by
  simp [field, Nat.shiftRight_eq_div_pow]

theorem field_lt {n : Nat} (p : BitVec n) (lo len : Nat) : field p lo len < 2 ^ len := by
  rw [field_eq]
  exact Nat.mod_lt _ (Nat.two_pow_pos len)

theorem replyDone_toNat (r : BitVec 48) : (replyDone r).toNat = r.toNat / 2 ^ 40 % 2 := by
  rw [replyDone, BitVec.getLsbD, Nat.testBit_eq_decide_div_mod_eq]
  generalize r.toNat / 2 ^ 40 = v
  rcases Nat.mod_two_eq_zero_or_one v with h | h <;> simp [h]

/-- Byte 0 of a reply is its echoed kind, its status and its done flag (R184). -/
theorem replyByte_zero (r : BitVec 48) :
    replyByte r 0 = 16 * replyKind r + 2 * replyStatus r + (replyDone r).toNat := by
  rw [replyDone_toNat, replyByte, replyKind, replyStatus, field_eq, field_eq, field_eq]
  omega

theorem replyTorque_eq (r : BitVec 48) : replyTorque r = 256 * replyByte r 1 + replyByte r 2 := by
  simp only [replyTorque, replyByte, field_eq]
  omega

theorem replyAngle_eq (r : BitVec 48) : replyAngle r = 256 * replyByte r 3 + replyByte r 4 := by
  simp only [replyAngle, replyByte, field_eq]
  omega

/-- The worth of one bit of a number. -/
theorem testBit_worth (v k : Nat) : (if v.testBit k = true then 2 ^ k else 0) = v / 2 ^ k % 2 * 2 ^ k := by
  rw [Nat.testBit_eq_decide_div_mod_eq]
  rcases Nat.mod_two_eq_zero_or_one (v / 2 ^ k) with h | h <;> simp [h]

/-- The low bits of a number add up to it, each with its worth, most significant first. -/
theorem low_bits_sum (v n : Nat) : v % 2 ^ n
    = ((List.range n).map fun j => if v.testBit (n - 1 - j) = true then 2 ^ (n - 1 - j) else 0).sum := by
  induction n with
  | zero => simp [Nat.mod_one]
  | succ n ih =>
    have hrest : (List.range n).map ((fun j => if v.testBit (n + 1 - 1 - j) = true then 2 ^ (n + 1 - 1 - j) else 0)
        ∘ Nat.succ) = (List.range n).map fun j => if v.testBit (n - 1 - j) = true then 2 ^ (n - 1 - j) else 0 :=
      List.map_congr_left fun j _ => by
        rw [Function.comp, show n + 1 - 1 - j.succ = n - 1 - j by omega]
    rw [List.range_succ_eq_map, List.map_cons, List.sum_cons, List.map_map, hrest, ← ih, testBit_worth,
      Nat.mod_pow_succ, Nat.mul_comm (2 ^ n), Nat.add_comm]
    rfl

theorem field_testBit {n : Nat} (p : BitVec n) (lo : Nat) {len j : Nat} (hj : j < len) :
    (field p lo len).testBit j = p.getLsbD (lo + j) := by
  rw [field, ← BitVec.getLsbD, BitVec.getLsbD_extractLsb']
  simp [hj]

/-- A byte of the reply is read from its eight bits, most significant first (R184). -/
theorem replyByte_replyOfBits {bits : List Bool} (h : bits.length = 48) {k : Nat} (hk : k < 6) :
    replyByte (replyOfBits bits) k
      = ((List.range 8).map fun j => if bits[8 * k + j]? = some true then 2 ^ (7 - j) else 0).sum := by
  have hbits := (Nat.mod_eq_of_lt (field_lt (replyOfBits bits) (8 * (5 - k)) 8)).symm.trans (low_bits_sum _ 8)
  refine hbits.trans (congrArg List.sum (List.map_congr_left fun j hj => ?_))
  have hj' : j < 8 := List.mem_range.1 hj
  rw [field_testBit _ _ (by omega), replyOfBits_getElem? h (show 8 * k + j < 48 by omega),
    show 8 * (5 - k) + (7 - j) = 47 - (8 * k + j) by omega]
  simp

/-! ## The judgement -/

theorem replySumOk_iff (r : BitVec 48) : replySumOk r = true ↔
    (replyByte r 0 + replyByte r 1 + replyByte r 2 + replyByte r 3 + replyByte r 4 + replyByte r 5) % 256 = 0 := by
  simp [replySumOk]

theorem judgeReply_badSum {r : BitVec 48} (h : ¬ replySumOk r = true) (k : DriveKind) : judgeReply k r = .failure := by
  simp [judgeReply, h]

theorem judgeReply_otherKind {r : BitVec 48} {k : DriveKind} (h : replyKind r ≠ k.code) :
    judgeReply k r = .failure := by
  simp [judgeReply, h]

/-- A reply with its sum right and its kind echoed is judged by its status (R94). -/
theorem judgeReply_status {r : BitVec 48} {k : DriveKind} (hsum : replySumOk r = true) (hk : replyKind r = k.code) :
    judgeReply k r =
      if replyStatus r = 1 then (if k = .result ∧ replyDone r = false then .busy else .success)
      else if replyStatus r = 2 ∧ k = .result then .busy else .failure := by
  unfold judgeReply
  rw [if_neg (by simp [hsum]), if_neg (by simp [hk])]
  by_cases h1 : replyStatus r = 1
  · rw [h1]
    cases k with
    | result => cases replyDone r <;> rfl
    | _ => rfl
  · by_cases h2 : replyStatus r = 2
    · rw [h2]
      cases k <;> rfl
    · have h2' : ¬ (replyStatus r = 2 ∧ k = .result) := fun h => h2 h.1
      rw [if_neg h1, if_neg h2']
      split <;> simp_all

/-- Settles O30: the bytes of a command, the order of the bits, the fields of a reply, and its judgement case by
case. -/
theorem replyIsJudgedByChecksumKindAndStatus : Obligations.ReplyIsJudgedByChecksumKindAndStatus := by
  refine ⟨fun r => ⟨r.check, ?_, ?_, ?_, ?_, command_sum r⟩, driveCode_eq, fun r => ?_, fun s => ⟨?_, fun x hx => ?_⟩,
    fun bits h => ⟨fun n hn => replyOfBits_getElem? h hn, fun k hk => replyByte_replyOfBits h hk⟩, fun k r => ?_⟩
  · rintro torque speed limit rfl ht hs hl
    rw [command_eq, setup_body ht hs hl]
  · rintro rfl
    rfl
  · rintro rfl
    rfl
  · rintro rfl
    rfl
  · exact ⟨replyByte_zero r, field_lt r 44 4, field_lt r 41 3, replyTorque_eq r, replyAngle_eq r⟩
  · intro h
    rw [State.dataOut, h]
  · have hd : s.dataOut = payloadBits x.request.command := by
      rw [State.dataOut, Option.mem_def.1 hx]
    rw [hd, payloadBits_length]
    exact ⟨rfl, rfl, fun n _ => payloadBits_getElem? _ n⟩
  · dsimp only
    rw [← replySumOk_iff, ne_eq, ← replySumOk_iff]
    refine ⟨fun h => judgeReply_badSum h k, fun _ h => judgeReply_otherKind h, fun hsum hk => ?_,
      judgeReply_badSum (by decide) k⟩
    rw [judgeReply_status hsum hk]
    refine ⟨fun h1 hr => ?_, fun h1 _ hd => ?_, fun h1 hr hd => ?_, fun h2 hr => ?_, fun h2 hr => ?_, fun h1 h2 => ?_⟩
    · rw [if_pos h1, if_neg fun h => hr h.1]
    · simp [h1, hd]
    · simp [h1, hr, hd]
    · simp [h2, hr]
    · simp [h2, hr]
    · simp [h1, h2]

end Sys2Proof.Machine
end

section
/-!
The drive link's own commands: the grant (O29), the completion of a transaction (O31), and the RESULT that is asked
again (O33).
-/
namespace Sys2Proof.Machine

/-! ## The grant -/

theorem isKind_iff {k : DriveKind} {o : Option DriveRequest} : isKind k o = true ↔ ∃ q ∈ o, q.kind = k := by
  cases o <;> simp [isKind]

/-- The lowest head whose pending request is of a kind (R99). -/
def State.lowestAsking (s : State) (k : DriveKind) : Option LocalHead :=
  ([0, 1, 2, 3] : List LocalHead).find? fun i => isKind k (s.slot i).pending

theorem granted_eq (s : State) : s.granted = (((s.lowestAsking .stop).or (s.lowestAsking .start)).or
    (s.lowestAsking .setup)).or (s.lowestAsking .result) := by
  simp only [State.granted, State.headsAsking, List.head?_append, List.head?_filter, State.lowestAsking]

theorem lowestAsking_none {s : State} {k : DriveKind} (h : ∀ i, ∀ q ∈ (s.slot i).pending, q.kind ≠ k) :
    s.lowestAsking k = none := by
  refine List.find?_eq_none.2 fun i _ hi => ?_
  obtain ⟨q, hq, hk⟩ := isKind_iff.1 hi
  exact h i q hq hk

/-- The first of the four heads with a property is the lowest that has it. -/
theorem find_heads_eq {p : LocalHead → Bool} {i : LocalHead} (hi : p i = true) (hlow : ∀ j, p j = true → i ≤ j) :
    ([0, 1, 2, 3] : List LocalHead).find? p = some i := by
  have hbelow : ∀ j, j < i → p j = false := fun j hj => Bool.eq_false_iff.2 fun h => absurd (hlow j h) (not_le.2 hj)
  fin_cases i <;> simp_all

theorem lowestAsking_some {s : State} {i : LocalHead} {r : DriveRequest} (hr : (s.slot i).pending = some r)
    (hlow : ∀ j, ∀ q ∈ (s.slot j).pending, q.kind = r.kind → i ≤ j) : s.lowestAsking r.kind = some i := by
  refine find_heads_eq (isKind_iff.2 ⟨r, hr, rfl⟩) fun j hj => ?_
  obtain ⟨q, hq, hk⟩ := isKind_iff.1 hj
  exact hlow j q hq hk

/-- The arbiter grants the request that no other goes before: by kind, and within a kind by head (R99). -/
theorem granted_of_first {s : State} {i : LocalHead} {r : DriveRequest} (hr : (s.slot i).pending = some r)
    (hfirst : ∀ j, ∀ q ∈ (s.slot j).pending, r.kind.rank < q.kind.rank ∨ r.kind.rank = q.kind.rank ∧ i ≤ j) :
    s.granted = some i := by
  have hnone : ∀ k : DriveKind, k.rank < r.kind.rank → s.lowestAsking k = none := fun k hk =>
    lowestAsking_none fun j q hq hqk => by
      have hrank := hfirst j q hq
      rw [hqk] at hrank
      omega
  have hsome : s.lowestAsking r.kind = some i := lowestAsking_some hr fun j q hq hk => by
    have hrank := hfirst j q hq
    rw [hk] at hrank
    exact (hrank.resolve_left (lt_irrefl _)).2
  rw [granted_eq]
  cases hk : r.kind with
  | stop => simp [← hk, hsome]
  | start => simp [hnone .stop (by simp [hk, DriveKind.rank]), ← hk, hsome]
  | setup =>
    simp [hnone .stop (by simp [hk, DriveKind.rank]), hnone .start (by simp [hk, DriveKind.rank]), ← hk, hsome]
  | result =>
    simp [hnone .stop (by simp [hk, DriveKind.rank]), hnone .start (by simp [hk, DriveKind.rank]),
      hnone .setup (by simp [hk, DriveKind.rank]), ← hk, hsome]

theorem granted_none {s : State} (h : ∀ i, (s.slot i).pending = none) : s.granted = none := by
  have hk : ∀ k, s.lowestAsking k = none := fun k => lowestAsking_none fun i q hq => by simp [h i] at hq
  simp [granted_eq, hk]

/-- What a grant leaves of a head's requests (R97, R99). -/
theorem grant_eq {d : DriveSlot} {r : DriveRequest} (h : d.pending = some r) : d.grant =
    if r = .stop then { d with pending := d.deferred, deferred := none } else { d with pending := none } := by
  unfold DriveSlot.grant
  rw [h]
  cases r <;> rfl

theorem State.updSlot_congr {s : State} {i : LocalHead} {f g : DriveSlot → DriveSlot}
    (h : f (s.slot i) = g (s.slot i)) : s.updSlot i f = s.updSlot i g :=
  congrArg (fun p => { s with dlc := { s.dlc with slots := p } }) (PerHead.upd_congr h)

theorem driveGrant_some {s : State} {i : LocalHead} {r : DriveRequest} (hc : s.dlc.current = none)
    (hg : s.granted = some i) (hr : (s.slot i).pending = some r) :
    s.driveGrant = ({ s with dlc := { s.dlc with current := some (s.transactionOf i r) } } : State).updSlot i
      DriveSlot.grant := by
  simp only [State.driveGrant, hc, hg, hr]
  rfl

theorem driveGrant_running {s : State} (h : s.dlc.current ≠ none) : s.driveGrant = s := by
  unfold State.driveGrant
  split
  · next hc _ => exact absurd hc h
  · rfl

theorem driveGrant_noRequest {s : State} (h : s.granted = none) : s.driveGrant = s := by
  unfold State.driveGrant
  split
  · next hg => simp [h] at hg
  · rfl

/-- Settles O29: the arbiter's choice is the first of the heads that ask for the highest kind, and the grant is read at
that head. -/
theorem grantGoesToTheHighestKind : Obligations.GrantGoesToTheHighestKind := by
  rintro s t dt rfl hlive
  have he : exec (.driveGrant dt) s = .next (s.elapse dt).driveGrant :=
    congrArg Host.Outcome.next (whenLive_live hlive _)
  rw [he]
  refine ⟨fun hc i r hr hfirst => ?_, fun h => ?_⟩
  · have hattached : (s.elapse dt).transactionOf i r = {
        head := i, request := r, attached := r.kind != .stop && ((s.elapse dt).head i).phase != .idle,
        endsAt := (s.elapse dt).now + 200 } := by
      simp only [State.transactionOf, decide_not, bne, beq_eq_decide]
    rw [driveGrant_some hc (granted_of_first hr hfirst) hr, hattached]
    exact congrArg Host.Outcome.next (State.updSlot_congr (grant_eq hr))
  · rcases h with h | h
    · rw [driveGrant_running h]
    · rw [driveGrant_noRequest (granted_none h)]

/-! ## The drive-failure count -/

/-- The link at rest, its transaction over. -/
def State.linkIdle (s : State) : State :=
  { s with dlc := { s.dlc with current := none } }

/-- A head's drive-failure count after a completion (R102). -/
def ReplyClass.countFrom (c : ReplyClass) (n : Nat) : Nat :=
  if c = .success then 0 else if c = .failure then min 3 (n + 1) else n

/-- The station with the head's drive-failure count moved, before what a third failure brings (R102). -/
def State.counted (s : State) (i : LocalHead) (c : ReplyClass) : State :=
  s.updHead i fun _ => { s.head i with driveFailures := c.countFrom (s.head i).driveFailures }

theorem counted_head (s : State) (i : LocalHead) (c : ReplyClass) :
    (s.counted i c).head i = { s.head i with driveFailures := c.countFrom (s.head i).driveFailures } :=
  State.head_updHead_same s i _

/-- A completion moves the count, and the third failure latches DRIVE_FAULT and asks for the bench (R102, R103). -/
theorem countCompletion_eq (s : State) (i : LocalHead) (c : ReplyClass) : s.countCompletion i c =
    if c = .failure ∧ (s.head i).driveFailures = 2 then ((s.counted i c).latch .driveFault).benchHead i .drive
    else s.counted i c := by
  cases c with
  | success => exact State.updHead_congr rfl
  | busy => exact (State.updHead_id s i).symm.trans (State.updHead_congr rfl)
  | failure =>
    have hc : (s.updHead i fun h => { h with driveFailures := min Config.failureMax (h.driveFailures + 1) })
        = s.counted i .failure := State.updHead_congr rfl
    simp only [true_and, State.countCompletion, State.driveFailed, hc]

section
variable {s : State} {i : LocalHead} {c : ReplyClass}

theorem countCompletion_counted (h : ¬ (c = .failure ∧ (s.head i).driveFailures = 2)) :
    s.countCompletion i c = s.counted i c := by
  rw [countCompletion_eq, if_neg h]

variable (h : c = .failure ∧ (s.head i).driveFailures = 2)
include h

theorem countCompletion_third_benched (hb : (s.head i).bench ≠ none) :
    s.countCompletion i c = (s.counted i c).latch .driveFault := by
  rw [countCompletion_eq, if_pos h, benchHead_benched]
  rw [head_latch, counted_head]
  exact hb

theorem countCompletion_third_active (hb : (s.head i).bench = none) :
    ((s.counted i c).latch .driveFault).becomesBenched i .drive (s.countCompletion i c) := by
  rw [countCompletion_eq, if_pos h]
  refine benchHead_becomesBenched ?_ .drive
  rw [head_latch, counted_head]
  exact hb

/-- A third failure leaves the count at 3, DRIVE_FAULT latched and the head benched (R103). -/
theorem countCompletion_third : ((s.countCompletion i c).head i).driveFailures = 3
    ∧ hasNotice (s.countCompletion i c).sc.latched .driveFault = true
    ∧ ((s.countCompletion i c).head i).bench = some ((s.head i).bench.getD .drive) := by
  have hn : hasNotice (s.countCompletion i c).sc.latched .driveFault = true := by
    rw [countCompletion_eq, if_pos h]
    exact benchHead_keepsNotices _ _ _ _ (latch_has _ _)
  have hcount : c.countFrom (s.head i).driveFailures = 3 := by
    rw [h.1, h.2]
    rfl
  cases hb : (s.head i).bench with
  | none =>
    have hhead := (countCompletion_third_active h hb).1
    rw [head_latch, counted_head, hcount] at hhead
    exact ⟨by rw [hhead], hn, by rw [hhead]; rfl⟩
  | some r =>
    have hhead : (s.countCompletion i c).head i = { s.head i with driveFailures := 3 } := by
      rw [countCompletion_third_benched h (by simp [hb]), head_latch, counted_head, hcount]
    exact ⟨by rw [hhead], hn, by rw [hhead]; exact hb⟩

end

/-! ## The completion -/

/-- Before its time the transaction goes on, and an idle link has none (R91). -/
theorem transactionComplete_early {s : State} (h : ∀ x ∈ s.dlc.current, s.now < x.endsAt) (reply : BitVec 48) :
    s.transactionComplete reply = s := by
  unfold State.transactionComplete
  split
  · next x hx => exact if_neg (not_le.2 (h x hx))
  · rfl

theorem transactionComplete_due {s : State} {x : Transaction} (hx : s.dlc.current = some x) (h : x.endsAt ≤ s.now)
    (reply : BitVec 48) : s.transactionComplete reply = s.complete x reply := by
  unfold State.transactionComplete
  rw [hx]
  exact if_pos h

theorem completionApplies_iff (s : State) (x : Transaction) : s.completionApplies x = true ↔
    x.attached = true ∧ (s.head x.head).phase ≠ .idle
      ∧ (x.request.kind = .result → (s.head x.head).phase = .releasing) := by
  simp only [State.completionApplies, Bool.and_eq_true, Bool.or_eq_true, decide_eq_true_eq, and_assoc]
  tauto

/-- The completion of a STOP, or one that is not applied, moves the count and no more (R101). -/
theorem complete_unapplied {s : State} {x : Transaction}
    (h : x.attached = false ∨ (s.head x.head).phase = .idle ∨ x.request.kind = .stop
      ∨ x.request.kind = .result ∧ (s.head x.head).phase ≠ .releasing) (reply : BitVec 48) :
    s.complete x reply = s.linkIdle.countCompletion x.head (judgeReply x.request.kind reply) := by
  by_cases ha : s.completionApplies x = true
  · obtain ⟨hatt, hopen, hrel⟩ := (completionApplies_iff s x).1 ha
    have hk : x.request.kind = .stop := by
      rcases h with h | h | h | h
      · simp [h] at hatt
      · exact absurd h hopen
      · exact h
      · exact absurd (hrel h.1) h.2
    unfold State.complete
    rw [hk]
    exact if_pos ha
  · exact if_neg ha

theorem complete_applied {s : State} {x : Transaction} (h : s.completionApplies x = true) (reply : BitVec 48) :
    s.complete x reply = (s.linkIdle.countCompletion x.head (judgeReply x.request.kind reply)).applyCompletion x.head
      x.request.kind (judgeReply x.request.kind reply) (replyTorque reply) (replyAngle reply) :=
  if_pos h

/-- JOG is marked at the head after the count as before it: the count leaves mode and flags (R113). -/
theorem countCompletion_markJog (s : State) (i : LocalHead) (c : ReplyClass) :
    (s.countCompletion i c).markJog i
      = (s.countCompletion i c).updHead i fun w => { w with flags := s.withJog (s.head i).flags } := by
  have hm : (s.countCompletion i c).sc.mode = s.sc.mode :=
    (countCompletion_only s i c).keeps .mode (by simp [reporting])
  rw [markJog_eq]
  refine State.updHead_congr ?_
  unfold State.withJog
  rw [hm, (countCompletion_sameCycle s i c).flags]

/-- What an applied completion of a SETUP or a START makes of its head (R101). -/
theorem applyCompletion_setup_or_start (s : State) (i : LocalHead) {k : DriveKind} (hk : k = .setup ∨ k = .start)
    (c : ReplyClass) (torque angle : Nat) : s.applyCompletion i k c torque angle = (s.markJog i).updHead i fun w =>
      { w with
        setupDone := w.setupDone || decide (k = .setup ∧ c = .success),
        flags := if k = .start ∧ c = .failure then setFlag w.flags .driveFault else w.flags } := by
  rcases hk with rfl | rfl
  · cases c with
    | success => exact State.updHead_congr (by simp)
    | _ => exact (State.updHead_id (s.markJog i) i).symm.trans (State.updHead_congr (by simp))
  · cases c with
    | failure => exact State.updHead_congr (by simp)
    | _ => exact (State.updHead_id (s.markJog i) i).symm.trans (State.updHead_congr (by simp))

/-- Settles O31: the completion is the count, and then what is applied to the cycle, each by its own equation. -/
theorem completionMovesTheFailureCount : Obligations.CompletionMovesTheFailureCount := by
  rintro s t dt reply rfl hlive
  have he : ∀ r, exec (.driveTransactionComplete dt r) s = .next ((s.elapse dt).transactionComplete r) := fun r =>
    congrArg Host.Outcome.next (whenLive_live hlive _)
  refine ⟨fun h => ?_, he _, fun x hx hdue => ?_⟩
  · rw [he, transactionComplete_early h]
  rw [he, transactionComplete_due hx hdue]
  generalize s.elapse dt = t at *
  refine ⟨t.linkIdle.countCompletion x.head (judgeReply x.request.kind reply),
    countCompletion_counted (s := t.linkIdle), countCompletion_third_benched (s := t.linkIdle),
    countCompletion_third_active (s := t.linkIdle), countCompletion_third (s := t.linkIdle),
    fun h => congrArg Host.Outcome.next (complete_unapplied h reply), ?_, ?_⟩
  · rintro ⟨hatt, hopen, hk⟩
    have ha : t.completionApplies x = true :=
      (completionApplies_iff t x).2 ⟨hatt, hopen, fun h => by rcases hk with hk | hk <;> simp [hk] at h⟩
    rw [complete_applied ha, applyCompletion_setup_or_start _ _ hk, countCompletion_markJog, State.updHead_updHead]
    refine congrArg Host.Outcome.next (State.updHead_congr ?_)
    rw [(countCompletion_sameCycle t.linkIdle x.head _).setupDone]
    rfl
  · intro hatt hk hrel hc
    have ha : t.completionApplies x = true :=
      (completionApplies_iff t x).2 ⟨hatt, by simp [hrel], fun _ => hrel⟩
    rw [complete_applied ha, hc, hk]
    show Host.Outcome.next (((t.linkIdle.countCompletion x.head .failure).markJog x.head).resultFailed x.head) = _
    rw [State.resultFailed, countCompletion_markJog, State.flag, State.updHead_updHead]
    rfl

/-! ## The RESULT that is asked again -/

theorem resultWaitExpiry_due {s : State} {i : LocalHead} {w : Nat} (hw : (s.slot i).resultWait = some w)
    (h : w ≤ s.now) : s.resultWaitExpiry i
      = s.updSlot i fun d => ({ d with resultWait := none } : DriveSlot).request .result := by
  unfold State.resultWaitExpiry
  rw [hw]
  exact (if_pos h).trans (State.updSlot_updSlot s i _ _)

theorem resultWaitExpiry_early {s : State} {i : LocalHead} (h : ∀ w ∈ (s.slot i).resultWait, s.now < w) :
    s.resultWaitExpiry i = s := by
  unfold State.resultWaitExpiry
  split
  · next w hw => exact if_neg (not_le.2 (h w hw))
  · rfl

/-- Settles O33: a busy completion moves no count and starts the wait, whose end is a request. -/
theorem busyResultIsAskedAgain : Obligations.BusyResultIsAskedAgain := by
  rintro s t dt rfl hlive
  refine ⟨fun reply x hx hdue hatt hr hrel hbusy => ?_, fun i => ?_⟩
  · have he : exec (.driveTransactionComplete dt reply) s = .next ((s.elapse dt).transactionComplete reply) :=
      congrArg Host.Outcome.next (whenLive_live hlive _)
    have hk : x.request.kind = .result := by rw [hr]; rfl
    have ha : (s.elapse dt).completionApplies x = true :=
      (completionApplies_iff _ x).2 ⟨hatt, by simp [hrel], fun _ => hrel⟩
    rw [he, transactionComplete_due hx hdue, complete_applied ha, hk, hbusy]
    show Host.Outcome.next (((s.elapse dt).linkIdle.markJog x.head).resultBusy x.head) = _
    rw [markJog_eq]
    rfl
  · have he : exec (.resultWaitExpiry dt i) s = .next ((s.elapse dt).resultWaitExpiry i) :=
      congrArg Host.Outcome.next (whenLive_live hlive _)
    rw [he]
    refine ⟨fun ⟨w, hw, hle⟩ => ?_, fun h => ?_⟩
    · rw [resultWaitExpiry_due hw hle]
    · rw [resultWaitExpiry_early h]

end Sys2Proof.Machine
end

section
/-!
The end of a cycle (O13): the jar's report, its hand-off to the awaiting-verdict table with or without an eviction, and
the head IDLE.
-/
namespace Sys2Proof.Machine

/-! ## The report -/

/-- The seven jar counters that the report of a capping cycle moves, with their cap (R120). -/
theorem tally_seated (c : HeadCounters) (r : JarReport) : c.tally true r = { c with
    seated := min 65535 (c.seated + 1),
    cappedOk := if r.outcome = .cappedOk then min 65535 (c.cappedOk + 1) else c.cappedOk,
    cappedSuspect := if r.outcome = .cappedSuspect then min 65535 (c.cappedSuspect + 1) else c.cappedSuspect,
    notCapped :=
      if r.outcome ≠ .cappedOk ∧ r.outcome ≠ .cappedSuspect then min 65535 (c.notCapped + 1) else c.notCapped,
    shortFlushes := if hasFlag r.flags .shortFlush then min 65535 (c.shortFlushes + 1) else c.shortFlushes,
    noFlushes := if hasFlag r.flags .noFlush then min 65535 (c.noFlushes + 1) else c.noFlushes,
    driveFaults := if hasFlag r.flags .driveFault then min 65535 (c.driveFaults + 1) else c.driveFaults } := by
  unfold HeadCounters.tally
  cases r.outcome <;> rfl

theorem capped_iff (o : JarOutcome) : o.capped = true ↔ o = .cappedOk ∨ o = .cappedSuspect := by
  cases o <;> simp [JarOutcome.capped]

theorem not_capped_iff (o : JarOutcome) : o.capped = false ↔ o ≠ .cappedOk ∧ o ≠ .cappedSuspect := by
  rw [← Bool.not_eq_true, capped_iff, not_or]

/-- The entry of the jar at a head with given contents. -/
theorem awaitingEntry_eq {s w : State} {i : LocalHead} {h : Head} (hs : Piece.resetting.same s w)
    (hn : Piece.now.same s w) (hh : w.head i = h) : w.awaitingEntry i = {
      seq := (h.bound.map (·.seq)).getD 65535, head := s.fh + i.val, profile := h.profile,
      applied := if hasFlag h.flags .noFlush then 0 else h.applied, flags := h.flags, cappedAt := s.now } := by
  unfold State.awaitingEntry
  rw [hh, seqOf_eq, globalHead_of_same hs, show w.now = s.now from hn]
  rfl

/-- The station with the jar of a capping cycle counted and its report handed in, before the hand-off (R118, R120). -/
def State.jarReported (s : State) (i : LocalHead) (o : JarOutcome) (torque angle : Nat) : State :=
  s.reportJar i true (s.jarReport i o torque angle)

section
variable (s : State) (i : LocalHead) (o : JarOutcome) (torque angle : Nat)

theorem jarReported_only : ChangesOnly (.headCounts i :: reporting) s (s.jarReported i o torque angle) :=
  reportJar_only s i true _

theorem jarReported_head : (s.jarReported i o torque angle).head i = s.head i :=
  (jarReported_only s i o torque angle).keeps (.head i) (by simp [reporting])

theorem jarReported_vu : (s.jarReported i o torque angle).vu = s.vu :=
  vu_of_only (jarReported_only s i o torque angle) (by simp [reporting]) (by simp [reporting]) (by simp [reporting])

theorem jarReported_awaitingEntry : (s.jarReported i o torque angle).awaitingEntry i = s.awaitingEntry i := by
  have h := jarReported_only s i o torque angle
  unfold State.awaitingEntry
  rw [jarReported_head, globalHead_of_same (h.keeps .resetting (by simp [reporting])),
    show (s.jarReported i o torque angle).now = s.now from h.keeps .now (by simp [reporting])]

theorem jarReported_sameBus :
    SameBus (s.handIn (.jarReport (s.jarReport i o torque angle))) (s.jarReported i o torque angle) :=
  (SameBus.of_only (updCounters_only s i _) (by simp [busPieces])).handIn _

theorem jarReported_headCounters : (s.jarReported i o torque angle).headCounters.get i
    = (s.headCounters.get i).tally true (s.jarReport i o torque angle) := by
  have h := (handIn_reporting (s.updCounters i fun c => c.tally true (s.jarReport i o torque angle))
    (f := .jarReport (s.jarReport i o torque angle)) rfl).keeps (.headCounts i) (by simp [reporting])
  refine h.trans ?_
  rw [State.updCounters_headCounters, PerHead.get_upd_same]

/-! ## The hand-off -/

/-- The station with the entry in place of the oldest of a full table and the eviction counted, before the notice
(R127). -/
def State.evicted (s : State) (e : AwaitingEntry) : State :=
  ({ s with vu := { s.vu with awaiting := s.vu.awaiting.drop 1 ++ [e] } } : State).count fun c =>
    { c with evictions := bump c.evictions }

theorem evicted_only (e : AwaitingEntry) : ChangesOnly [.awaiting, .verdictCounts] s (s.evicted e) :=
  (setAwaiting_only s _).comp (count_evictions_only _ _)

theorem handOff_room {s : State} {e : AwaitingEntry} (h : s.vu.awaiting.length < 128) :
    s.handOff e = { s with vu := { s.vu with awaiting := s.vu.awaiting ++ [e] } } :=
  if_pos h

theorem handOff_full {s : State} {e : AwaitingEntry} (h : 128 ≤ s.vu.awaiting.length) :
    s.handOff e = (s.evicted e).latch .verdictEvicted :=
  if_neg (not_lt.2 h)

/-- A capped jar with a seq is handed off behind its report, and no other (R122). -/
theorem reported_eq : s.reported i o torque angle =
    if o.capped = true ∧ seqOf (s.head i).bound ≠ 65535 then
      (s.jarReported i o torque angle).handOff (s.awaitingEntry i)
    else s.jarReported i o torque angle := by
  show (s.jarReported i o torque angle).handOffJar i o = _
  unfold State.handOffJar
  rw [jarReported_head, jarReported_awaitingEntry]
  simp only [Bool.and_eq_true, decide_eq_true_eq, Config.noSeq]

/-! ## The end of a cycle -/

theorem finish_reported_only :
    ChangesOnly [.head i, .link] (s.reported i o torque angle) (s.finish i o torque angle) :=
  (updHead_only _ i _).comp (detachCycle_only _ i)

theorem reported_finish_sameBus : SameBus (s.reported i o torque angle) (s.finish i o torque angle) :=
  .of_only (finish_reported_only s i o torque angle) (by simp [busPieces])

@[simp] theorem finish_vu : (s.finish i o torque angle).vu = (s.reported i o torque angle).vu :=
  rfl

@[simp] theorem finish_counters : (s.finish i o torque angle).counters = (s.reported i o torque angle).counters :=
  rfl

theorem finish_headCounters : (s.finish i o torque angle).headCounters.get i
    = (s.headCounters.get i).tally true (s.jarReport i o torque angle) :=
  ((handOffJar_only (s.jarReported i o torque angle) i o).keeps (.headCounts i)
    (by simp [handOffPieces, reporting])).trans (jarReported_headCounters s i o torque angle)

end

section
variable {s : State} {i : LocalHead} {o : JarOutcome} (torque angle : Nat)

/-- A jar that is not handed off is reported and no more: of the station's counters the TX drops alone can move. -/
theorem finish_unhanded (h : o.capped = false ∨ seqOf (s.head i).bound = 65535) :
    (s.finish i o torque angle).vu = s.vu
      ∧ s.queues (.jarReport (s.jarReport i o torque angle)) (s.finish i o torque angle)
      ∧ (s.finish i o torque angle).counters
        = { s.counters with txDrops := (s.finish i o torque angle).counters.txDrops } := by
  have hb := reported_finish_sameBus s i o torque angle
  rw [finish_vu, finish_counters]
  rw [reported_eq, if_neg fun hc => h.elim (by simp [hc.1]) hc.2] at hb ⊢
  exact ⟨jarReported_vu s i o _ _, ((jarReported_sameBus s i o _ _).trans hb).busSideOf,
    counters_of_only (jarReported_only s i o _ _) (by simp [reporting])⟩

variable (hc : o.capped = true) (hq : seqOf (s.head i).bound ≠ 65535)
include hc hq

/-- A capped jar is appended to a table with room, behind its report (R126). -/
theorem finish_handedOff_room (h : s.vu.awaiting.length < 128) :
    (s.finish i o torque angle).vu = { s.vu with awaiting := s.vu.awaiting ++ [s.awaitingEntry i] }
      ∧ s.queues (.jarReport (s.jarReport i o torque angle)) (s.finish i o torque angle)
      ∧ (s.finish i o torque angle).counters
        = { s.counters with txDrops := (s.finish i o torque angle).counters.txDrops } := by
  have hv := jarReported_vu s i o torque angle
  have hk := counters_of_only (jarReported_only s i o torque angle) (by simp [reporting])
  rw [finish_vu, finish_counters, reported_eq, if_pos ⟨hc, hq⟩, handOff_room (by rw [hv]; exact h), ← hv]
  exact ⟨rfl, (finish_sameBus s i o _ _ (.inr h)).busSideOf, hk⟩

/-- A capped jar takes the place of the oldest entry of a full table, and the eviction is counted and latched behind the
report (R118, R127). -/
theorem finish_handedOff_full (h : 128 ≤ s.vu.awaiting.length) :
    (s.finish i o torque angle).vu = { s.vu with awaiting := s.vu.awaiting.drop 1 ++ [s.awaitingEntry i] }
      ∧ SameBus ((s.handIn (.jarReport (s.jarReport i o torque angle))).latch .verdictEvicted)
        (s.finish i o torque angle)
      ∧ hasNotice (s.finish i o torque angle).sc.latched .verdictEvicted = true
      ∧ (s.finish i o torque angle).counters = { s.counters with
          evictions := min 65535 (s.counters.evictions + 1),
          txDrops := (s.finish i o torque angle).counters.txDrops } := by
  have hv := jarReported_vu s i o torque angle
  have hb := reported_finish_sameBus s i o torque angle
  have he : SameBus (s.jarReported i o torque angle) _ :=
    .of_only (evicted_only (s.jarReported i o torque angle) (s.awaitingEntry i)) (by simp [busPieces])
  have hl := latch_only ((s.jarReported i o torque angle).evicted (s.awaitingEntry i)) .verdictEvicted
  rw [finish_vu, finish_counters]
  rw [reported_eq, if_pos ⟨hc, hq⟩, handOff_full (by rw [hv]; exact h)] at hb ⊢
  refine ⟨?_, (((jarReported_sameBus s i o _ _).trans he).latch _).trans hb, ?_, ?_⟩
  · rw [vu_of_only hl (by simp [reporting]) (by simp [reporting]) (by simp [reporting]), ← hv]
    rfl
  · rw [hb.latched]
    exact latch_has _ _
  · have hj := counters_of_only (jarReported_only s i o torque angle) (by simp [reporting])
    rw [counters_of_only hl (by simp [reporting])]
    unfold State.evicted State.count
    rw [hj]
    rfl

end

/-- Settles O13: the head is as `endCycle` leaves it, its counters are the tally, and the hand-off is made at a
table with room, made at a full one, or not made. -/
theorem finishedCycleIsCountedReportedAndHandedOff : Obligations.FinishedCycleIsCountedReportedAndHandedOff := by
  intro s i o torque angle
  have hr := jarReport_eq (Piece.same_refl s _) (rfl : s.head i = _) o torque angle
  have he := awaitingEntry_eq (Piece.same_refl s _) (Piece.same_refl s _) (rfl : s.head i = _)
  have hq := seqOf_eq (s.head i).bound
  refine ⟨by rw [finish_head]; exact ⟨rfl, rfl, rfl, rfl, rfl, rfl, rfl, rfl, rfl⟩, ?_, finish_current s i o _ _,
    fun h => ?_, fun hc hs hn => ?_, fun hc hs hn => ?_,
    (finish_only s i o _ _).mono (by simp [finishPieces, handOffPieces, endingPieces, reporting])⟩
  · rw [finish_headCounters, tally_seated]
    rfl
  · rw [← hr]
    exact finish_unhanded torque angle (h.imp (not_capped_iff o).2 hq.trans)
  · rw [← hr, ← he]
    exact finish_handedOff_room torque angle ((capped_iff o).2 hc) (hq ▸ hs) hn
  · obtain ⟨hv, hb, hl, hk⟩ := finish_handedOff_full torque angle ((capped_iff o).2 hc) (hq ▸ hs) hn
    rw [← hr, ← he]
    exact ⟨hv, hb.busSideOf, hl, hk⟩

end Sys2Proof.Machine
end

section
/-!
The RESULT that ends a cycle (O32): torque and turn angle tested against the profile, the outcome, the report and the
hand-off.
-/
namespace Sys2Proof.Machine

/-! ## The tests on a RESULT -/

theorem hasFlag_withJog (s : State) (w : Word) {f : JarFlag} (hf : f ≠ .jog) :
    hasFlag (s.withJog w) f = hasFlag w f := by
  unfold State.withJog
  split
  · simp [hasFlag_setFlag, hf.symm]
  · rfl

/-- The tests on torque and turn angle set no other flag than their three (R110, R111). -/
theorem hasFlag_torqueFlags (Tmin Tmax thetaMin torque angle : Nat) (w : Word) {f : JarFlag}
    (hf : f ∉ [JarFlag.underTorque, .overTorque, .crossThread]) :
    hasFlag (torqueFlags Tmin Tmax thetaMin torque angle w) f = hasFlag w f := by
  simp only [List.mem_cons, List.not_mem_nil, or_false, not_or] at hf
  obtain ⟨hu, ho, hx⟩ := hf
  rw [Bool.eq_iff_iff]
  simp [torqueFlags, hasFlag_setFlagIf, hu, ho, hx]

theorem hasFlag_evaluatedFlags (p : Profile) (w : Word) (torque angle : Nat) :
    hasFlag (evaluatedFlags p w torque angle) .driveFault = hasFlag w .driveFault := by
  unfold evaluatedFlags
  split
  · rfl
  · exact hasFlag_torqueFlags _ _ _ _ _ _ (by decide)

/-- The tests of a RESULT in their order, which a jar with DRIVE_FAULT does not get (R110, R111, R112). -/
theorem evaluatedFlags_eq (p : Profile) (w : Word) (torque angle : Nat) : evaluatedFlags p w torque angle =
    if hasFlag w .driveFault then w
    else
      let f1 := if torque < p.Tmin then setFlag w .underTorque else w
      let f2 := if p.Tmax < torque then setFlag f1 .overTorque else f1
      if p.Tmin ≤ torque ∧ angle < p.thetaMin then setFlag f2 .crossThread else f2 := by
  simp only [evaluatedFlags, torqueFlags, setFlagIf, Bool.and_eq_true, decide_eq_true_eq]

theorem outcomeOf_eq (w : Word) : outcomeOf w =
    if hasFlag w .noFlush || hasFlag w .driveFault || hasFlag w .underTorque || hasFlag w .overTorque
      || hasFlag w .crossThread || hasFlag w .aborted then .cappedSuspect else .cappedOk := by
  simp only [outcomeOf, isSuspect, suspectFlags, List.any_cons, List.any_nil, Bool.or_false, Bool.or_assoc]

theorem outcome_capped (suspect : Bool) :
    (if suspect then JarOutcome.cappedSuspect else JarOutcome.cappedOk).capped = true := by
  cases suspect <;> rfl

/-! ## The end of the cycle -/

/-- The station as a RESULT ends the head's cycle: the link idle, the failure count moved and the flags final, the bench
and the rest of the cycle as they were (R101, R102, R112). -/
def State.resultTaken (s : State) (i : LocalHead) (failures : Nat) (f : Word) : State :=
  s.linkIdle.updHead i fun _ => { s.head i with driveFailures := failures, flags := f }

section
variable (s : State) (i : LocalHead) (n : Nat) (f : Word)

theorem resultTaken_head : (s.resultTaken i n f).head i = { s.head i with driveFailures := n, flags := f } :=
  State.head_updHead_same s.linkIdle i _

theorem resultTaken_only : ChangesOnly [.link, .head i] s (s.resultTaken i n f) :=
  (setCurrent_only s none).comp (updHead_only _ i _)

/-- The count of a completion and JOG, for a count that asks for no bench. -/
theorem counted_markJog {c : ReplyClass} (h : ¬ (c = .failure ∧ (s.head i).driveFailures = 2)) :
    (s.linkIdle.countCompletion i c).markJog i
      = s.resultTaken i (c.countFrom (s.head i).driveFailures) (s.withJog (s.head i).flags) := by
  rw [countCompletion_markJog, countCompletion_counted (s := s.linkIdle) h]
  exact State.updHead_updHead s.linkIdle i _ _

/-- A RESULT of class success ends the cycle with the flags of its tests, and what it reports of torque and turn angle
hangs on DRIVE_FAULT alone, which the tests leave (R112, R114, R116). -/
theorem resultTaken_evaluate (torque angle : Nat) :
    let e := evaluatedFlags (s.profile (s.head i).profile) f torque angle
    (s.resultTaken i n f).evaluate i torque angle = (s.resultTaken i n e).finish i
      (if hasFlag e .noFlush || hasFlag e .driveFault || hasFlag e .underTorque || hasFlag e .overTorque
        || hasFlag e .crossThread || hasFlag e .aborted then .cappedSuspect else .cappedOk)
      (if hasFlag f .driveFault then 0 else min 255 (torque / 5))
      (if hasFlag f .driveFault then 0 else min 4095 angle) := by
  intro e
  have hf : hasFlag e .driveFault = hasFlag f .driveFault := hasFlag_evaluatedFlags _ f torque angle
  have hu : (s.resultTaken i n f).updHead i (fun h => { h with flags := e }) = s.resultTaken i n e :=
    State.updHead_updHead s.linkIdle i _ _
  rw [← outcomeOf_eq, ← hf, ← hu]
  unfold State.evaluate
  rw [resultTaken_head]
  rfl

/-- A RESULT of class failure ends the cycle with DRIVE_FAULT. -/
theorem resultTaken_resultFailed : (s.resultTaken i n f).resultFailed i
    = (s.resultTaken i n (setFlag f .driveFault)).finish i .cappedSuspect 0 0 :=
  congrArg (State.finish · i _ _ _) (State.updHead_updHead s.linkIdle i _ _)

end

/-- A capped jar is reported and, where it has a seq, handed off: appended at a table with room, and at a full one in
place of the oldest entry (R118, R122, R126, R127). -/
def State.handsOver (s : State) (r : JarReport) (e : AwaitingEntry) (u : State) : Prop :=
  (e.seq = 65535 → u.vu.awaiting = s.vu.awaiting ∧ s.queues (.jarReport r) u)
  ∧ (e.seq ≠ 65535 → s.vu.awaiting.length < 128 →
    u.vu.awaiting = s.vu.awaiting ++ [e] ∧ s.queues (.jarReport r) u)
  ∧ (e.seq ≠ 65535 → 128 ≤ s.vu.awaiting.length →
    u.vu.awaiting = s.vu.awaiting.drop 1 ++ [e] ∧ ((s.handIn (.jarReport r)).latch .verdictEvicted).busSideOf u
    ∧ u.counters.evictions = min 65535 (s.counters.evictions + 1))

theorem finish_handsOver (s : State) (i : LocalHead) {o : JarOutcome} (hc : o.capped = true) (torque angle : Nat) :
    s.handsOver (s.jarReport i o torque angle) (s.awaitingEntry i) (s.finish i o torque angle) := by
  refine ⟨fun hq => ?_, fun hq hr => ?_, fun hq hr => ?_⟩
  · obtain ⟨hv, hb, -⟩ := finish_unhanded torque angle (o := o) (.inr hq)
    exact ⟨by rw [hv], hb⟩
  · obtain ⟨hv, hb, -⟩ := finish_handedOff_room torque angle hc hq hr
    exact ⟨by rw [hv], hb⟩
  · obtain ⟨hv, hb, -, hk⟩ := finish_handedOff_full torque angle hc hq hr
    exact ⟨by rw [hv], hb.busSideOf, by rw [hk]⟩

/-- What is handed over after a change of head and link alone is handed over from the state before. -/
theorem State.handsOver.of_only {s m u : State} {i : LocalHead} (hm : ChangesOnly [.link, .head i] s m) {r : JarReport}
    {e : AwaitingEntry} (h : m.handsOver r e u) : s.handsOver r e u := by
  have hb : SameBus s m := .of_only hm (by simp [busPieces])
  have hv : m.vu.awaiting = s.vu.awaiting := hm.keeps .awaiting (by simp)
  have hk : m.counters.evictions = s.counters.evictions := (hm.keeps .verdictCounts (by simp)).1
  have hq : m.queues (.jarReport r) u → s.queues (.jarReport r) u := fun ⟨h₁, h₂, h₃⟩ =>
    ⟨h₁.trans (hb.handIn _).lbi, h₂.trans (hb.handIn _).txDrops, h₃.trans (hb.handIn _).latched⟩
  have hl := (hb.handIn (.jarReport r)).latch .verdictEvicted
  unfold State.handsOver at h
  rw [hv, hk] at h
  obtain ⟨hn, hroom, hfull⟩ := h
  refine ⟨fun h => (hn h).imp_right hq, fun h hr => (hroom h hr).imp_right hq, fun h hr => ?_⟩
  obtain ⟨ha, ⟨h₁, h₂, h₃⟩, he⟩ := hfull h hr
  exact ⟨ha, ⟨h₁.trans hl.lbi, h₂.trans hl.txDrops, h₃.trans hl.latched⟩, he⟩

/-- The cycle that a RESULT ends with a capped jar: the head IDLE with its count, the link idle, the jar reported and
handed over. -/
theorem resultTaken_finish (s : State) (i : LocalHead) (n : Nat) (f : Word) {o : JarOutcome} (hc : o.capped = true)
    (torque angle : Nat) :
    let h := s.head i
    let q := (h.bound.map (·.seq)).getD 65535
    let u := (s.resultTaken i n f).finish i o torque angle
    (u.head i).phase = .idle ∧ (u.head i).driveFailures = n ∧ u.dlc.current = none
      ∧ s.handsOver {
          seq := q, head := s.fh + i.val, outcome := o, profile := h.profile, flags := f, torque := torque,
          angle := angle } {
          seq := q, head := s.fh + i.val, profile := h.profile, applied := if hasFlag f .noFlush then 0 else h.applied,
          flags := f, cappedAt := s.now } u
      ∧ ChangesOnly (.link :: endingPieces i) s u := by
  intro h q u
  have hm := resultTaken_only s i n f
  have hh := resultTaken_head s i n f
  have hr := jarReport_eq (hm.keeps .resetting (by simp)) hh o torque angle
  have he := awaitingEntry_eq (hm.keeps .resetting (by simp)) (hm.keeps .now (by simp)) hh
  have hu := finish_handsOver (s.resultTaken i n f) i hc torque angle
  rw [hr, he] at hu
  refine ⟨finish_phase _ i _ _ _, ?_, finish_current _ i _ _ _, hu.of_only hm,
    (hm.comp (finish_only _ i _ _ _)).mono (by simp [finishPieces, handOffPieces, endingPieces, reporting])⟩
  rw [show u.head i = _ from finish_head _ i o torque angle, hh]
  rfl

/-- The completion of a RESULT that is applied to a head in RELEASING (R101). -/
theorem complete_result {s : State} {x : Transaction} (hatt : x.attached = true) (hr : x.request = .result)
    (hrel : (s.head x.head).phase = .releasing) (reply : BitVec 48) :
    s.complete x reply = (s.linkIdle.countCompletion x.head (judgeReply .result reply)).applyCompletion x.head .result
      (judgeReply .result reply) (replyTorque reply) (replyAngle reply) := by
  have ha : s.completionApplies x = true :=
    (completionApplies_iff s x).2 ⟨hatt, by simp [hrel], fun _ => hrel⟩
  have hk : x.request.kind = .result := by rw [hr]; rfl
  rw [complete_applied ha, hk]

/-- A RESULT of class success moves the count to 0, marks JOG and is evaluated (R101, R102, R113). -/
theorem applied_success (s : State) (i : LocalHead) (torque angle : Nat) :
    (s.linkIdle.countCompletion i .success).applyCompletion i .result .success torque angle
      = (s.resultTaken i 0 (s.withJog (s.head i).flags)).evaluate i torque angle :=
  congrArg (State.evaluate · i torque angle) (counted_markJog s i (by simp))

/-- A RESULT of class failure that is no third moves the count by one, marks JOG and ends the cycle (R101, R102). -/
theorem applied_failure {s : State} {i : LocalHead} (h : (s.head i).driveFailures ≠ 2) (torque angle : Nat) :
    (s.linkIdle.countCompletion i .failure).applyCompletion i .result .failure torque angle
      = (s.resultTaken i (min 3 ((s.head i).driveFailures + 1))
          (setFlag (s.withJog (s.head i).flags) .driveFault)).finish i .cappedSuspect 0 0 :=
  (congrArg (State.resultFailed · i) (counted_markJog s i fun hf => h hf.2)).trans (resultTaken_resultFailed s i _ _)

/-- Settles O32: a RESULT of either class is `resultTaken` with its flags, followed by the end of the cycle. -/
theorem resultEndsTheCycleOnTorqueAndAngle : Obligations.ResultEndsTheCycleOnTorqueAndAngle := by
  rintro s t dt reply rfl hlive x hx hdue hatt hr hrel
  have he : exec (.driveTransactionComplete dt reply) s = .next ((s.elapse dt).transactionComplete reply) :=
    congrArg Host.Outcome.next (whenLive_live hlive _)
  rw [he, transactionComplete_due hx hdue, complete_result hatt hr hrel]
  generalize s.elapse dt = t at *
  refine ⟨fun hc => ?_, fun hc hn => ?_⟩
  · have hu := resultTaken_evaluate t x.head 0 (t.withJog (t.head x.head).flags) (replyTorque reply) (replyAngle reply)
    rw [← applied_success, evaluatedFlags_eq, hasFlag_withJog t _ (by decide)] at hu
    rw [hc]
    exact ⟨_, congrArg Host.Outcome.next hu, resultTaken_finish t x.head 0 _ (outcome_capped _) _ _⟩
  · rw [hc, applied_failure hn]
    exact ⟨_, rfl, resultTaken_finish t x.head _ _ rfl 0 0⟩

end Sys2Proof.Machine
end

section
/-!
The arrival of a VERDICT: one that is not matched (O35), and a matched one, which is counted and may teach and bench
(O36).
-/
namespace Sys2Proof.Machine

/-! ## The checks in their order -/

theorem exec_verdict {s t : State} {dt : Nat} {src : Address} (ht : s.heard dt src = t)
    (hr : (s.elapse dt).reads = true) (p : BitVec 56) :
    exec (.verdict dt src p) s = .next (t.takeVerdict src p) :=
  exec_receive (c := .verdict dt src p) (owner := fun u => u.takeVerdict src p) rfl rfl ht hr

/-- A VERDICT is taken after the join, from a DETECTOR, where it names this station (R131). -/
theorem takeVerdict_ignored {s : State} {src : Address} {p : BitVec 56}
    (h : ¬ (s.joined = true ∧ s.roleOf src = some .detector ∧ verdictCapper p = s.addr.toNat)) :
    s.takeVerdict src p = s := by
  unfold State.takeVerdict
  by_cases hs : s.joined = true ∧ s.roleOf src = some .detector
  · rw [if_neg (by simp [hs]), if_pos fun hc => h ⟨hs.1, hs.2, hc⟩]
  · exact if_pos (by simpa [imp_iff_not_or] using hs)

section
variable {s : State} {src : Address} {p : BitVec 56} (hj : s.joined = true) (hd : s.roleOf src = some .detector)
  (hc : verdictCapper p = s.addr.toNat)
include hj hd hc

theorem takeVerdict_late (h : ∀ e ∈ s.vu.awaiting, e.seq ≠ verdictSeq p) :
    s.takeVerdict src p = s.count fun c => { c with lateVerdicts := bump c.lateVerdicts } := by
  have hn : (s.vu.awaiting.find? fun e => e.seq == verdictSeq p) = none :=
    List.find?_eq_none.2 fun e he => by simpa using h e he
  rw [State.takeVerdict, if_neg (by simp [hj, hd]), if_neg (not_not.2 hc), hn]

variable {e : AwaitingEntry} (he : (s.vu.awaiting.find? fun a => a.seq == verdictSeq p) = some e)
include he

theorem takeVerdict_mismatch (h : verdictHead p ≠ e.head) :
    s.takeVerdict src p = s.count fun c => { c with mismatches := bump c.mismatches } := by
  rw [State.takeVerdict, if_neg (by simp [hj, hd]), if_neg (not_not.2 hc), he]
  exact if_pos h

theorem takeVerdict_matched (h : verdictHead p = e.head) {i : LocalHead} (ho : s.owns i = true)
    (hi : e.head = s.fh + i.val) :
    s.takeVerdict src p = s.matchVerdict i e (verdictFinding p) (verdictDepth p) := by
  have hl : s.localOf e.head = some i := hi ▸ localOf_globalHead ho
  rw [State.takeVerdict, if_neg (by simp [hj, hd]), if_neg (not_not.2 hc), he]
  simp only [ne_eq, h, not_true_eq_false, if_false, hl]

end

/-- Settles O35: one equation of `takeVerdict` for each way a VERDICT can fail to match. -/
theorem verdictThatIsNotMatched : Obligations.VerdictThatIsNotMatched := by
  unfold Obligations.VerdictThatIsNotMatched
  intro s t dt src p ht hr
  rw [exec_verdict ht hr p]
  refine ⟨fun h => ?_, fun ⟨hj, hd, hc⟩ h => ?_, fun ⟨hj, hd, hc⟩ e he h => ?_⟩
  · rw [takeVerdict_ignored h]
  · rw [takeVerdict_late hj hd hc h]
    rfl
  · rw [takeVerdict_mismatch hj hd hc he h]
    rfl

/-! ## A matched verdict -/

/-- The trim step and the trim are clamped each to its own range (R136). -/
theorem trimAfter_eq (trim : Int) (target depth G stepMax : Nat) : trimAfter trim target depth G stepMax =
    max (-200) (min 200 (trim + max (-(stepMax : Int)) (min stepMax
      (Int.tdiv (((target : Int) - (depth : Int)) * G) 256)))) := by
  unfold trimAfter trimStep
  rw [clamp_eq_max_min (by decide), clamp_eq_max_min (by omega)]

theorem countFinding_eq (c : HeadCounters) (f : Finding) : c.countFinding f = { c with
    goods := if f = .good then min 65535 (c.goods + 1) else c.goods,
    duds := if f = .dud then min 65535 (c.duds + 1) else c.duds } := by
  cases f <;> rfl

/-- What the station has learned of a head after a matched verdict: the dwell that made the seal, and the teaching where
nothing explains the seal (R133, R135). -/
def VerdictSlot.afterVerdict (v : VerdictSlot) (teaches : Bool) (p : Profile) (f : Finding) (depth applied : Nat) :
    VerdictSlot :=
  if teaches then ({ v with lastDwell := applied } : VerdictSlot).teach p f depth else { v with lastDwell := applied }

theorem afterVerdict_eq (v : VerdictSlot) (teaches : Bool) (p : Profile) (f : Finding) (depth applied : Nat) :
    v.afterVerdict teaches p f depth applied = { v with
      trim := if teaches ∧ f ≠ .unreadable then max (-200) (min 200 (v.trim + max (-(p.stepMax : Int)) (min p.stepMax
        (Int.tdiv (((p.target : Int) - (depth : Int)) * p.G) 256)))) else v.trim,
      duds := if teaches ∧ f = .good then 0 else if teaches ∧ f = .dud then min 15 (v.duds + 1) else v.duds,
      lastDwell := applied } := by
  rw [← trimAfter_eq]
  cases teaches with
  | false => simp [VerdictSlot.afterVerdict]
  | true => cases f <;> simp [VerdictSlot.afterVerdict, VerdictSlot.teach, dudsAfter]

/-- The station with a matched entry gone and its head holding given learned values and counters (R133). -/
def State.judged (s : State) (i : LocalHead) (e : AwaitingEntry) (v : VerdictSlot) (c : HeadCounters) : State :=
  (({ s with vu := { s.vu with
    awaiting := s.vu.awaiting.filter fun a => a.seq != e.seq, noVerdictRun := 0 } } : State).updLearned i
      fun _ => v).updCounters i fun _ => c

theorem judged_updLearned (s : State) (i : LocalHead) (e : AwaitingEntry) (v : VerdictSlot) (c : HeadCounters)
    (f : VerdictSlot → VerdictSlot) : (s.judged i e v c).updLearned i f = s.judged i e (f v) c :=
  congrArg (fun p => { s.judged i e v c with vu := { (s.judged i e v c).vu with slots := p } })
    (PerHead.upd_upd s.vu.slots i (fun _ => v) f)

theorem judged_learned (s : State) (i : LocalHead) (e : AwaitingEntry) (v : VerdictSlot) (c : HeadCounters) :
    (s.judged i e v c).learned i = v :=
  PerHead.get_upd_same s.vu.slots i fun _ => v

/-- A matched verdict that teaches asks for the bench where a DUD brings the count to Nb (R138, R139). -/
theorem matchVerdict_eq (s : State) (i : LocalHead) (e : AwaitingEntry) (f : Finding) (depth : Nat) :
    let k := s.profile e.profile
    let v := (s.learned i).afterVerdict (s.mayTeach i e) k f depth e.applied
    let u := s.judged i e v ((s.headCounters.get i).countFinding f)
    s.matchVerdict i e f depth =
      if s.mayTeach i e = true ∧ f = .dud ∧ 0 < k.Nb ∧ k.Nb ≤ v.duds then u.benchHead i .duds else u := by
  intro k v u
  have hm : s.matchEntry i e f
      = s.judged i e { s.learned i with lastDwell := e.applied } ((s.headCounters.get i).countFinding f) := rfl
  unfold State.matchVerdict
  dsimp only
  by_cases ht : s.mayTeach i e = true
  · have hv : v = ({ s.learned i with lastDwell := e.applied } : VerdictSlot).teach k f depth := if_pos ht
    have hk : (s.matchEntry i e f).profile e.profile = k := rfl
    have hu : (s.matchEntry i e f).updLearned i (fun w => w.teach k f depth) = u := by
      rw [hm, judged_updLearned, ← hv]
    rw [if_pos ht, State.teach, hk, hu, show u.learned i = v from judged_learned s i e v _]
    simp only [ht, true_and]
  · have hv : v = { s.learned i with lastDwell := e.applied } := if_neg ht
    rw [if_neg ht, if_neg fun h => ht h.1, hm, ← hv]

theorem bench_of_mayTeach {s : State} {i : LocalHead} {e : AwaitingEntry} (h : s.mayTeach i e = true) :
    (s.head i).bench = none := by
  simp only [State.mayTeach, Bool.and_eq_true, Option.isNone_iff_eq_none] at h
  obtain ⟨⟨-, hb⟩, -⟩ := h
  exact hb

/-- Settles O36: the matched entry's station is `judged`, benched where `matchVerdict_eq` says so. -/
theorem matchedVerdictCountsAndTeaches : Obligations.MatchedVerdictCountsAndTeaches := by
  unfold Obligations.MatchedVerdictCountsAndTeaches
  intro s t dt src p i ht hr hj hd hc ho e he hh hi v c k finding explained teaches step trim duds benches taught
  have hq : e.seq = verdictSeq p := by simpa using List.find?_some he
  have hm := matchVerdict_eq t i e finding (verdictDepth p)
  dsimp only at hm
  rw [afterVerdict_eq, countFinding_eq] at hm
  have hu : taught = t.judged i e { v with trim := trim, duds := duds, lastDwell := e.applied } { c with
      goods := if finding = .good then min 65535 (c.goods + 1) else c.goods,
      duds := if finding = .dud then min 65535 (c.duds + 1) else c.duds } := by
    unfold State.judged
    rw [hq]
  rw [exec_verdict ht hr p, takeVerdict_matched hj hd hc he hh ho hi]
  refine ⟨_, rfl, fun hb => hm.trans ((if_neg hb).trans hu.symm), fun hb => ?_⟩
  have hn : (taught.head i).bench = none := bench_of_mayTeach (s := t) (e := e) hb.1
  rw [hm.trans ((if_pos hb).trans (congrArg (·.benchHead i .duds) hu.symm))]
  exact benchHead_becomesBenched hn .duds

end Sys2Proof.Machine
end

section
/-!
The expiry of the oldest awaiting-verdict entry (O37).
-/
namespace Sys2Proof.Machine

/-- The station with its oldest entry expired at a head and the no-verdict run at `run`, before any notice (R128,
R129). -/
def State.expired (s : State) (i : LocalHead) (run : Nat) : State :=
  ({ s with vu := { s.vu with awaiting := s.vu.awaiting.tail, noVerdictRun := run } } : State).updCounters i
    fun c => { c with noVerdicts := bump c.noVerdicts }

theorem expired_only (s : State) (i : LocalHead) (run : Nat) :
    ChangesOnly [.awaiting, .silentRun, .headCounts i] s (s.expired i run) :=
  (setAwaitingRun_only s _ run).comp (updCounters_only _ i _)

/-- What an expiry has moved is not moved again by the latch that may follow it. -/
theorem expired_read {s u : State} {i : LocalHead} {run : Nat} (h : ChangesOnly reporting (s.expired i run) u) :
    u.vu.awaiting = s.vu.awaiting.tail
      ∧ u.headCounters.get i = { s.headCounters.get i with
          noVerdicts := min 65535 ((s.headCounters.get i).noVerdicts + 1) }
      ∧ u.vu.noVerdictRun = run := by
  have hk : u.headCounters.get i = (s.expired i run).headCounters.get i := h.keeps (.headCounts i) (by simp [reporting])
  exact ⟨h.keeps .awaiting (by decide), hk.trans (PerHead.get_upd_same _ i _), h.keeps .silentRun (by decide)⟩

/-- The sixteenth expiry in a row latches DETECTOR_SILENT and sets the run back (R129). -/
theorem expired_noVerdict (s : State) (i : LocalHead) (run : Nat) : (s.expired i run).noVerdict =
    if run + 1 < 16 then s.expired i (run + 1) else (s.expired i 0).latch .detectorSilent := by
  unfold State.noVerdict
  by_cases h : run + 1 < 16
  · rw [if_pos h]
    exact if_neg (Nat.not_le.2 h)
  · rw [if_neg h]
    exact if_pos (Nat.not_lt.1 h)

theorem verdictExpiry_none {s : State} (h : s.vu.awaiting = []) : s.verdictExpiry = s := by
  rw [State.verdictExpiry, h]

section
variable {s : State} {e : AwaitingEntry} {rest : List AwaitingEntry} (ha : s.vu.awaiting = e :: rest)
include ha

theorem verdictExpiry_early (h : s.now < e.cappedAt + s.setup.Lv * 1000000) : s.verdictExpiry = s := by
  rw [State.verdictExpiry, ha]
  exact if_neg (by simpa [State.entryExpired] using h)

theorem verdictExpiry_due (h : e.cappedAt + s.setup.Lv * 1000000 ≤ s.now) {i : LocalHead} (ho : s.owns i = true)
    (hi : e.head = s.fh + i.val) : s.verdictExpiry =
      if s.vu.noVerdictRun + 1 < 16 then s.expired i (s.vu.noVerdictRun + 1)
      else (s.expired i 0).latch .detectorSilent := by
  have hl : s.localOf e.head = some i := hi ▸ localOf_globalHead ho
  have hx : s.entryExpired e = true := by simpa [State.entryExpired] using h
  have hs : s.verdictExpiry = (s.expired i s.vu.noVerdictRun).noVerdict := by
    unfold State.expired
    rw [State.verdictExpiry, ha]
    dsimp only
    rw [if_pos hx, hl]
    rfl
  rw [hs, expired_noVerdict]

end

/-- Settles O37: the expiry that is due is `expired`, with the latch at the sixteenth in a row. -/
theorem verdictExpiryCountsNoVerdict : Obligations.VerdictExpiryCountsNoVerdict := by
  unfold Obligations.VerdictExpiryCountsNoVerdict
  rintro s t dt rfl hlive
  have hx : exec (.verdictExpiry dt) s = .next (s.elapse dt).verdictExpiry :=
    congrArg Host.Outcome.next (whenLive_live hlive _)
  rw [hx]
  generalize s.elapse dt = t
  refine ⟨fun h => by rw [verdictExpiry_none h], fun e he => ?_⟩
  obtain ⟨rest, ha⟩ := List.head?_eq_some_iff.1 he
  refine ⟨fun h => by rw [verdictExpiry_early ha h], fun h i ho hi => ?_⟩
  dsimp only
  refine ⟨_, rfl, verdictExpiry_due ha h ho hi, ?_⟩
  rw [verdictExpiry_due ha h ho hi]
  by_cases hrun : t.vu.noVerdictRun + 1 < 16
  · obtain ⟨hw, hk, hn⟩ := expired_read (.refl reporting (t.expired i (t.vu.noVerdictRun + 1)))
    rw [if_pos hrun]
    exact ⟨hw, hk, fun _ => ⟨hn, expired_only t i _⟩, fun hr => absurd hrun (not_lt.2 hr)⟩
  · have hl := latch_only (t.expired i 0) .detectorSilent
    obtain ⟨hw, hk, hn⟩ := expired_read hl
    rw [if_neg hrun]
    exact ⟨hw, hk, fun hr => absurd hr hrun, fun _ => ⟨hn, latch_has _ _, (expired_only t i 0).comp hl⟩⟩

end Sys2Proof.Machine
end

section
/-!
HEAD_RETURN (O38): which frames are taken, what a return does at one head in each mode, and the heads of 255 one after
another.
-/
namespace Sys2Proof.Machine

/-! ## The frame -/

theorem exec_headReturn {s t : State} {dt : Nat} {src : Address} (ht : s.heard dt src = t)
    (hr : (s.elapse dt).reads = true) (p : BitVec 16) :
    exec (.headReturn dt src p) s = .next (t.takeReturn src p) :=
  exec_receive (c := .headReturn dt src p) (owner := fun u => u.takeReturn src p) rfl rfl ht hr

/-- A HEAD_RETURN is taken after the join and from a PANEL (R142). -/
theorem takeReturn_ignored {s : State} {src : Address} (h : ¬ (s.joined = true ∧ s.roleOf src = some .panel))
    (p : BitVec 16) : s.takeReturn src p = s :=
  if_pos (by simpa [imp_iff_not_or] using h)

/-- A head that the station does not own is not returned (R142). -/
theorem takeReturn_notOwned {s : State} {p : BitVec 16} (h255 : returnTarget p ≠ 255)
    (h : returnTarget p < s.fh ∨ s.fh + s.hc ≤ returnTarget p) (src : Address) : s.takeReturn src p = s := by
  have hl : s.localOf (returnTarget p) = none := Option.isNone_iff_eq_none.1 ((localOf_isNone_iff s _).2 h)
  unfold State.takeReturn
  rw [if_neg h255, hl]
  exact ite_self s

/-- No owned head is numbered 255 (R170). -/
theorem globalHead_ne_255 (s : State) (i : LocalHead) : s.fh + i.val ≠ 255 := by
  have hf : s.fh < 64 := s.sc.straps.fhPins.isLt
  omega

section
variable {s : State} {src : Address} {p : BitVec 16} (hj : s.joined = true) (hp : s.roleOf src = some .panel)
include hj hp

theorem takeReturn_one {i : LocalHead} (ho : s.owns i = true) (hi : returnTarget p = s.fh + i.val) :
    s.takeReturn src p = [i].foldl (fun w i => w.returnHead (returnTrim p) i) s := by
  unfold State.takeReturn
  rw [if_neg (by simp [hj, hp]), if_neg (hi ▸ globalHead_ne_255 s i), hi, localOf_globalHead ho]
  rfl

theorem takeReturn_all (h : returnTarget p = 255) :
    s.takeReturn src p = s.owned.foldl (fun w i => w.returnHead (returnTrim p) i) s := by
  unfold State.takeReturn
  rw [if_neg (by simp [hj, hp]), if_pos h]
  rfl

end

/-! ## The return of one head -/

theorem State.updLearned_congr {s : State} {i : LocalHead} {f g : VerdictSlot → VerdictSlot}
    (h : f (s.learned i) = g (s.learned i)) : s.updLearned i f = s.updLearned i g :=
  congrArg (fun p => { s with vu := { s.vu with slots := p } }) (PerHead.upd_congr h)

/-- What the return of a head reads, but for the transmit queue and the notices. -/
def returnReads (i : LocalHead) : List Piece :=
  [.mode, .resetting, .head i, .learned i]

/-- A head's HEAD_STATE with given values (R141). -/
theorem headReport_eq {s w : State} {i : LocalHead} {b : Option BenchReason} {v : VerdictSlot}
    (hs : Piece.resetting.same s w) (hb : (w.head i).bench = b) (hv : w.learned i = v) (o : Occasion) :
    w.headReport i o = {
      head := s.fh + i.val, bench := b, trim := v.trim, duds := v.duds, lastDwell := v.lastDwell, occasion := o } := by
  unfold State.headReport
  rw [globalHead_of_same hs, hb, hv]
  rfl

section
variable {t w : State} {i : LocalHead} (h : ∀ q ∈ returnReads i, q.same t w) (b : Bool)
include h

/-- In RUNNING a head is answered with its standing (R144). -/
theorem returnHead_running (hm : t.sc.mode = .running) : w.returnHead b i = w.handIn (.headState {
    head := t.fh + i.val, bench := (t.head i).bench, trim := (t.learned i).trim, duds := (t.learned i).duds,
    lastDwell := (t.learned i).lastDwell, occasion := .answer }) := by
  have hmode : w.sc.mode = t.sc.mode := h .mode (by simp [returnReads])
  have hhead : w.head i = t.head i := h (.head i) (by simp [returnReads])
  rw [State.returnHead, if_pos (hmode.trans hm), State.sendHeadState,
    headReport_eq (h .resetting (by simp [returnReads])) (by rw [hhead]) (h (.learned i) (by simp [returnReads]))]

/-- Out of RUNNING a head is put in service with its resets and sends a HEAD_STATE (R142, R143, R145). -/
theorem returnHead_inService {v : VerdictSlot} (hm : t.sc.mode ≠ .running)
    (hv : (t.learned i).returned (decide (t.sc.mode = .jog)) b = v) : w.returnHead b i =
      ((w.updHead i fun h => { h with bench := none, driveFailures := 0 }).updLearned i fun _ => v).handIn (.headState {
        head := t.fh + i.val, bench := none, trim := v.trim, duds := v.duds, lastDwell := v.lastDwell,
        occasion := .ret }) := by
  have hmode : w.sc.mode = t.sc.mode := h .mode (by simp [returnReads])
  have hl : (w.updHead i Head.returned).learned i = t.learned i := h (.learned i) (by simp [returnReads])
  have hu : (w.updHead i Head.returned).updLearned i (fun x => x.returned (decide (w.sc.mode = .jog)) b)
      = (w.updHead i Head.returned).updLearned i fun _ => v :=
    State.updLearned_congr (by rw [hl, hmode, hv])
  have hs : Piece.resetting.same t ((w.updHead i Head.returned).updLearned i fun _ => v) :=
    h .resetting (by simp [returnReads])
  have hb : (((w.updHead i Head.returned).updLearned i fun _ => v).head i).bench = none :=
    congrArg Head.bench (State.head_updHead_same w i Head.returned)
  rw [State.returnHead, if_neg (hmode ▸ hm), hu, State.sendHeadState,
    headReport_eq hs hb (State.learned_updLearned_same _ i _)]
  rfl

end

/-! ## The named heads, one after another -/

/-- The return of one head leaves what the return of another reads. -/
theorem returnHead_keepsReads {t w : State} {i j : LocalHead} (hij : j ≠ i) (h : ∀ q ∈ returnReads j, q.same t w)
    (b : Bool) : ∀ q ∈ returnReads j, q.same t (w.returnHead b i) := fun q hq =>
  Piece.same_trans (h q hq) ((returnHead_only w b i).keeps q (by
    simp only [returnReads, List.mem_cons, List.not_mem_nil, or_false] at hq
    rcases hq with rfl | rfl | rfl | rfl <;> simp [reporting, hij]))

/-- Where the return of a head, read from the state before the frame, is `act`, the returns of some heads are `act` at
each of them. -/
theorem foldl_returnHead {t : State} {b : Bool} {act : State → LocalHead → State}
    (hact : ∀ w i, (∀ q ∈ returnReads i, q.same t w) → w.returnHead b i = act w i) {l : List LocalHead} (hl : l.Nodup)
    {w : State} (hw : ∀ i ∈ l, ∀ q ∈ returnReads i, q.same t w) :
    l.foldl (fun w i => w.returnHead b i) w = l.foldl act w := by
  induction l generalizing w with
  | nil => rfl
  | cons i l ih =>
    obtain ⟨hi, hl⟩ := List.nodup_cons.1 hl
    rw [List.foldl_cons, List.foldl_cons, ← hact w i (hw i List.mem_cons_self)]
    exact ih hl fun j hj => returnHead_keepsReads (fun hji : j = i => hi (hji ▸ hj)) (hw j (List.mem_cons_of_mem i hj)) b

theorem owned_nodup (s : State) : s.owned.Nodup :=
  List.Nodup.filter _ (by decide)

/-- Settles O38: the named heads are one or all the owned ones, and each mode has its equation of `returnHead`. -/
theorem headReturnActsByMode : Obligations.HeadReturnActsByMode := by
  unfold Obligations.HeadReturnActsByMode
  intro s t dt src p ht hr taken report inService inRunning inStopped inJog named
  have hx := exec_headReturn ht hr p
  have hnamed : ∀ l : List LocalHead, l.Nodup →
      t.takeReturn src p = l.foldl (fun w i => w.returnHead (returnTrim p) i) t → named l := by
    intro l hl he
    have hact {act : State → LocalHead → State}
        (h : ∀ w i, (∀ q ∈ returnReads i, q.same t w) → w.returnHead (returnTrim p) i = act w i) :
        exec (.headReturn dt src p) s = .next (l.foldl act t) :=
      hx.trans (congrArg Host.Outcome.next
        (he.trans (foldl_returnHead h hl fun _ _ q _ => Piece.same_refl t q)))
    refine ⟨fun hm => hact fun w i h => returnHead_running h _ hm,
      fun hm => hact fun w i h => returnHead_inService h _ (by simp [hm]) ?_,
      fun hm => hact fun w i h => returnHead_inService h _ (by simp [hm]) ?_⟩
    · simp [VerdictSlot.returned, hm]
    · simp [VerdictSlot.returned, hm]
  refine ⟨fun h => ?_, fun ⟨hj, hp⟩ i ho hi => hnamed _ (List.nodup_singleton i) (takeReturn_one hj hp ho hi),
    fun ⟨hj, hp⟩ h => hnamed _ (owned_nodup t) (takeReturn_all hj hp h)⟩
  rw [hx]
  rcases h with h | ⟨h255, h⟩
  · rw [takeReturn_ignored h]
  · rw [takeReturn_notOwned h255 h]

end Sys2Proof.Machine
end

section
/-!
LINE_MODE (O39): which codes name a mode, what a change of mode does out of each mode, and the end of JOG at the owned
heads one after another.
-/
namespace Sys2Proof.Machine

/-! ## The frame -/

theorem exec_lineMode {s t : State} {dt : Nat} {src : Address} (ht : s.heard dt src = t)
    (hr : (s.elapse dt).reads = true) (p : BitVec 8) :
    exec (.lineMode dt src p) s = .next (t.takeLineMode src p) :=
  exec_receive (c := .lineMode dt src p) (owner := fun u => u.takeLineMode src p) rfl rfl ht hr

theorem fromPanel_iff (s : State) (src : Address) :
    s.fromPanel src = true ↔ s.joined = true ∧ s.roleOf src = some .panel := by
  simp [State.fromPanel]

theorem lineModeOf_none {p : BitVec 8} (h : p.toNat < 1 ∨ 3 < p.toNat) : lineModeOf p = none := by
  unfold lineModeOf
  split
  · omega
  · omega
  · omega
  · rfl

theorem lineModeOf_code {p : BitVec 8} {c : Nat × StationMode} (hp : p.toNat = c.1)
    (hc : c ∈ [(1, StationMode.running), (2, .stopped), (3, .jog)]) : lineModeOf p = some c.2 := by
  simp only [List.mem_cons, List.not_mem_nil, or_false] at hc
  unfold lineModeOf
  rw [hp]
  rcases hc with rfl | rfl | rfl <;> rfl

theorem takeLineMode_notTaken {s : State} {src : Address} (h : ¬ (s.joined = true ∧ s.roleOf src = some .panel))
    (p : BitVec 8) : s.takeLineMode src p = s :=
  if_pos (by simpa only [Bool.not_eq_true', ← Bool.not_eq_true, fromPanel_iff] using h)

theorem takeLineMode_unknown (s : State) (src : Address) {p : BitVec 8} (h : lineModeOf p = none) :
    s.takeLineMode src p = s := by
  unfold State.takeLineMode
  rw [h]
  exact ite_self s

section
variable {s : State} {src : Address} (h : s.joined = true ∧ s.roleOf src = some .panel) {p : BitVec 8} {m : StationMode}
  (hm : lineModeOf p = some m)
include h hm

theorem takeLineMode_present (hs : s.sc.mode = m) : s.takeLineMode src p = s := by
  unfold State.takeLineMode
  rw [if_neg (by simp [(fromPanel_iff s src).2 h]), hm]
  exact if_pos hs

theorem takeLineMode_change (hs : s.sc.mode ≠ m) : s.takeLineMode src p = s.changeMode m := by
  unfold State.takeLineMode
  rw [if_neg (by simp [(fromPanel_iff s src).2 h]), hm]
  exact if_neg hs

end

/-! ## The change of mode -/

/-- Out of STOPPED a header that is already low calls for a hold (R81, R149). -/
theorem changeMode_fromStopped {s : State} (hs : s.sc.mode = .stopped) {m : StationMode} (hm : m = .running ∨ m = .jog) :
    s.changeMode m =
      if s.sdu.stlo = .low ∧ 0 < s.setup.Hq then (s.setMode m).handIn (.steamHold s.setup.Hq) else s.setMode m := by
  have hcall : (s.setMode m).holdCalled = true ↔ s.sdu.stlo = .low ∧ 0 < s.setup.Hq := by
    rw [holdCalled_iff]
    exact and_congr_right fun _ => and_iff_right hm
  simp only [State.changeMode, hs, hcall, true_and, reduceCtorEq, if_false]
  rfl

/-- Out of RUNNING a change of mode does nothing more (R149). -/
theorem changeMode_fromRunning {s : State} (hs : s.sc.mode = .running) (m : StationMode) :
    s.changeMode m = s.setMode m := by
  simp [State.changeMode, hs]

/-- Out of JOG the held-over resets are applied (R145, R149). -/
theorem changeMode_fromJog {s : State} (hs : s.sc.mode = .jog) (m : StationMode) :
    s.changeMode m = (s.setMode m).jogEnd := by
  simp [State.changeMode, hs]

/-! ## The end of JOG -/

/-- What the end of JOG reads at a head, but for the transmit queue and the notices. -/
def jogEndReads (i : LocalHead) : List Piece :=
  [.resetting, .head i, .learned i]

/-- The end of JOG at a head that still stands as at `t` (R145). -/
theorem jogEndHead_eq {t w : State} {i : LocalHead} (h : ∀ q ∈ jogEndReads i, q.same t w) :
    State.jogEndHead i w =
      if (t.learned i).trimDue || (t.learned i).dudDue then
        (w.updLearned i fun _ => (t.learned i).applyDue).handIn (.headState {
          head := t.fh + i.val, bench := (t.head i).bench, trim := (t.learned i).applyDue.trim,
          duds := (t.learned i).applyDue.duds, lastDwell := (t.learned i).applyDue.lastDwell, occasion := .jogEnd })
      else w := by
  have hr : Piece.resetting.same t w := h .resetting (by simp [jogEndReads])
  have hh : w.head i = t.head i := h (.head i) (by simp [jogEndReads])
  have hl : w.learned i = t.learned i := h (.learned i) (by simp [jogEndReads])
  have hu : w.updLearned i VerdictSlot.applyDue = w.updLearned i fun _ => (t.learned i).applyDue :=
    State.updLearned_congr (congrArg VerdictSlot.applyDue hl)
  rw [State.jogEndHead, hl, hu, State.sendHeadState,
    headReport_eq (s := t) (w := w.updLearned i fun _ => (t.learned i).applyDue) hr (congrArg Head.bench hh)
      (State.learned_updLearned_same w i _)]

/-- The end of JOG at one head leaves what it reads at another. -/
theorem jogEndHead_keepsReads {i j : LocalHead} (hij : j ≠ i) (w : State) :
    ∀ q ∈ jogEndReads j, q.same w (State.jogEndHead i w) := fun q hq =>
  (jogEndHead_only i w).keeps q (by
    simp only [jogEndReads, List.mem_cons, List.not_mem_nil, or_false] at hq
    rcases hq with rfl | rfl | rfl <;> simp [reporting, hij])

/-- An action that at each head leaves what it reads at the others may read, at every head, the state before the first. -/
theorem foldl_reads {reads : LocalHead → List Piece} {t : State} {f g : State → LocalHead → State}
    (hfg : ∀ w i, (∀ q ∈ reads i, q.same t w) → f w i = g w i)
    (hk : ∀ w i j, j ≠ i → ∀ q ∈ reads j, q.same w (f w i)) {l : List LocalHead} (hl : l.Nodup) {w : State}
    (hw : ∀ i ∈ l, ∀ q ∈ reads i, q.same t w) : l.foldl f w = l.foldl g w := by
  induction l generalizing w with
  | nil => rfl
  | cons i l ih =>
    obtain ⟨hi, hl⟩ := List.nodup_cons.1 hl
    rw [List.foldl_cons, List.foldl_cons, ← hfg w i (hw i List.mem_cons_self)]
    exact ih hl fun j hj q hq =>
      Piece.same_trans (hw j (List.mem_cons_of_mem i hj) q hq) (hk w i j (fun hji => hi (hji ▸ hj)) q hq)

theorem jogEnd_eq (s : State) : s.jogEnd = s.owned.foldl (fun w i =>
    if (s.learned i).trimDue || (s.learned i).dudDue then
      (w.updLearned i fun _ => (s.learned i).applyDue).handIn (.headState {
        head := s.fh + i.val, bench := (s.head i).bench, trim := (s.learned i).applyDue.trim,
        duds := (s.learned i).applyDue.duds, lastDwell := (s.learned i).applyDue.lastDwell, occasion := .jogEnd })
    else w) s :=
  foldl_reads (fun _ _ => jogEndHead_eq) (fun w _ _ hij => jogEndHead_keepsReads hij w) (owned_nodup s)
    fun _ _ q _ => Piece.same_refl s q

/-- Settles O39: a code names its mode, and each present mode has its equation of `changeMode`. -/
theorem lineModeSetsTheMode : Obligations.LineModeSetsTheMode := by
  unfold Obligations.LineModeSetsTheMode
  intro s t dt src p ht hr taken
  rw [exec_lineMode ht hr p]
  refine ⟨?ignored, fun htaken c hc hp => ?named⟩
  case ignored =>
    rintro (h | h)
    · rw [takeLineMode_notTaken h]
    · rw [takeLineMode_unknown t src (lineModeOf_none h)]
  case named =>
    have hm := lineModeOf_code hp hc
    have changed {m : StationMode} (hs : t.sc.mode = m) (hne : c.2 ≠ m) {u : State} (hu : t.changeMode c.2 = u) :
        Host.Outcome.next (φ := Fault) (ρ := Refusal) (t.takeLineMode src p) = .next u :=
      congrArg _ ((takeLineMode_change htaken hm fun h => hne (h.symm.trans hs)).trans hu)
    refine ⟨fun hs => by rw [takeLineMode_present htaken hm hs],
      fun hs hne => changed hs hne (changeMode_fromStopped hs ?_),
      fun hs hne => changed hs hne (changeMode_fromRunning hs _),
      fun hs hne => changed hs hne ((changeMode_fromJog hs _).trans (jogEnd_eq _))⟩
    simp only [List.mem_cons, List.not_mem_nil, or_false] at hc
    rcases hc with rfl | rfl | rfl
    · exact .inl rfl
    · exact absurd rfl hne
    · exact .inr rfl

end Sys2Proof.Machine
end

section
/-!
Notices latched and cleared, one by one: what a hand-in and a latch leave of the latched word, and which notices stand
after a clear (R178).
-/
namespace Sys2Proof.Machine

/-! ## A notice latched -/

/-- Different notices have different bits (11, section 11.1). -/
theorem notice_bit_inj {n m : Notice} : n.bit = m.bit ↔ n = m := by
  refine ⟨fun h => ?_, congrArg _⟩
  have atBit : ∀ n : Notice, [Notice.addressConflict, .headMapConflict, .configInvalid, .recordUnderrun, .recordOverrun,
      .headBenched, .driveFault, .busIsolated, .steamLow, .verdictEvicted, .detectorSilent, .txDrop, .encoderFault,
      .lateConfig, .cycleAborted, .badFrame][n.bit]? = some n := by
    intro n
    cases n <;> rfl
  exact Option.some.inj ((atBit n).symm.trans (h ▸ atBit m))

theorem notice_bit_lt (n : Notice) : n.bit < 16 := by
  cases n <;> decide

theorem hasNotice_oneBit_eq (n m : Notice) : hasNotice (oneBit n.bit) m = decide (n = m) := by
  have hbit : (oneBit n.bit).getLsbD m.bit = (decide (n.bit < 16) && decide (n.bit = m.bit)) :=
    BitVec.getLsbD_twoPow n.bit m.bit
  rw [hasNotice, hbit, decide_eq_true (notice_bit_lt n), Bool.true_and]
  simp only [notice_bit_inj]

theorem setLatched_hasNotice (s : State) (n m : Notice) :
    hasNotice (s.setLatched n).sc.latched m = (hasNotice s.sc.latched m || decide (n = m)) := by
  rw [State.setLatched_sc, hasNotice_or, hasNotice_oneBit_eq]

/-- From `s` to `t` no notice but TX_DROP is latched or cleared. -/
def SameButTxDrop (s t : State) : Prop :=
  ∀ n, n ≠ .txDrop → hasNotice t.sc.latched n = hasNotice s.sc.latched n

theorem SameButTxDrop.of_eq {s t : State} (h : t.sc.latched = s.sc.latched) : SameButTxDrop s t :=
  fun n _ => congrArg (hasNotice · n) h

theorem SameButTxDrop.trans {s t u : State} (h₁ : SameButTxDrop s t) (h₂ : SameButTxDrop t u) : SameButTxDrop s u :=
  fun n hn => (h₂ n hn).trans (h₁ n hn)

theorem latchTxDrop_sameButTxDrop (s : State) : SameButTxDrop s s.latchTxDrop := by
  have h : SameButTxDrop s (s.setLatched .txDrop) := fun n hn => by
    rw [setLatched_hasNotice, decide_eq_false hn.symm, Bool.or_false]
  unfold State.latchTxDrop
  split
  · exact .of_eq rfl
  · dsimp only
    split
    · exact h
    · exact h.trans (.of_eq rfl)

theorem takeLoss_latched (s : State) (f : TxFrame) : (s.takeLoss f).sc.latched = s.sc.latched :=
  (takeLoss_only s f).keeps .latched (by
    cases f with
    | drawClaim g _ _ => cases h : s.localOf g <;> simp [lossPieces, h]
    | _ => simp [lossPieces])

/-- Handing a frame in can latch TX_DROP alone (R163). -/
theorem handIn_sameButTxDrop (s : State) (f : TxFrame) : SameButTxDrop s (s.handIn f) := by
  have ha (e : TxEntry) : SameButTxDrop s (s.nextAge.arrive e) := .of_eq rfl
  unfold State.handIn State.enter
  split
  · exact ha _
  · exact ((ha _).trans (latchTxDrop_sameButTxDrop _)).trans (.of_eq (takeLoss_latched _ _))

theorem requestNotice_sameButTxDrop (s : State) : SameButTxDrop s s.requestNotice := by
  unfold State.requestNotice
  split
  · exact .of_eq rfl
  · exact handIn_sameButTxDrop s _

/-- Latching a notice latches it, and of the others at most TX_DROP (R163, R178). -/
theorem latch_hasNotice (s : State) (n : Notice) {m : Notice} (hm : m ≠ .txDrop) :
    hasNotice (s.latch n).sc.latched m = (hasNotice s.sc.latched m || decide (n = m)) := by
  unfold State.latch
  split
  · next h =>
    by_cases hnm : n = m
    · simp [← hnm, h]
    · simp [hnm]
  · split
    · exact setLatched_hasNotice s n m
    · exact (requestNotice_sameButTxDrop _ m hm).trans (setLatched_hasNotice s n m)

theorem foldl_latch_hasNotice (b : Notice → Bool) (l : List Notice) (s : State) {m : Notice} (hm : m ≠ .txDrop) :
    hasNotice (l.foldl (fun u n => if b n then u.latch n else u) s).sc.latched m
      = (hasNotice s.sc.latched m || (decide (m ∈ l) && b m)) := by
  induction l generalizing s with
  | nil => simp
  | cons n l ih =>
    have hn : hasNotice (if b n then s.latch n else s).sc.latched m
        = (hasNotice s.sc.latched m || (b n && decide (n = m))) := by
      cases b n
      · simp
      · simpa using latch_hasNotice s n hm
    rw [List.foldl_cons, ih, hn, Bool.or_assoc]
    by_cases hnm : n = m
    · subst hnm
      cases b n <;> simp
    · simp [hnm, Ne.symm hnm]

/-! ## Notices cleared -/

/-- The condition notices (11, section 11.1). -/
def conditionNotices : List Notice :=
  [.addressConflict, .headMapConflict, .busIsolated, .steamLow]

/-- The conditions the statements list are those of the condition notices. -/
theorem conditions_eq (s : State) : s.conditions = conditionNotices.map fun n => (n, s.conditionHolds n) := by
  have ho : s.overlaps = fun e => e.addr != s.addr && e.role == .capper && decide (0 < e.count)
      && decide (e.first < s.fh + s.hc) && decide (s.fh < e.first + e.count) := by
    funext e
    simp only [State.overlaps, Bool.decide_and, Bool.and_assoc]
  simp only [State.conditions, conditionNotices, List.map_cons, List.map_nil, State.conditionHolds,
    State.headMapConflict, ho]

theorem not_conditionHolds {n : Notice} (h : n ∉ conditionNotices) (s : State) : s.conditionHolds n = false := by
  cases n <;> simp_all [conditionNotices, State.conditionHolds]

theorem eventNotices_of_mem {n : Notice} (h : n ∈ eventNotices) : n ≠ .txDrop ∧ n ∉ conditionNotices := by
  revert h
  cases n <;> decide

theorem hasNotice_and (a b : Word) (n : Notice) : hasNotice (a &&& b) n = (hasNotice a n && hasNotice b n) :=
  BitVec.getLsbD_and

theorem hasNotice_not (a : Word) (n : Notice) : hasNotice (~~~a) n = !hasNotice a n := by
  rw [hasNotice, BitVec.getLsbD_not, decide_eq_true (notice_bit_lt n), Bool.true_and, hasNotice]

theorem hasNotice_allOnes (n : Notice) : hasNotice 0xFFFF n = true := by
  cases n <;> decide

/-- The clear of the statements is the model's (R178). -/
theorem clearNotices_eq_noticesCleared (s : State) (w : Word) : s.clearNotices w = s.noticesCleared w := by
  rw [clearNotices_eq, State.noticesCleared, conditions_eq, List.foldl_filter, List.foldl_map]
  have hb (n : Notice) : (hasNotice (s.sc.latched &&& w) n && s.conditionHolds n)
      = (s.conditionHolds n && hasNotice w n && hasNotice s.sc.latched n) := by
    rw [hasNotice_and]
    ac_rfl
  simp only [hb]
  rfl

/-- After a clear a notice stands that stood, where it was not cleared or its condition holds (R178). -/
theorem noticesCleared_hasNotice (s : State) (w : Word) {n : Notice} (hn : n ≠ .txDrop) :
    hasNotice (s.noticesCleared w).sc.latched n
      = (hasNotice s.sc.latched n && (!hasNotice w n || s.conditionHolds n)) := by
  rw [← clearNotices_eq_noticesCleared, clearNotices_eq]
  refine (foldl_latch_hasNotice _ conditionNotices _ hn).trans ?_
  rw [hasNotice_and, hasNotice_not, hasNotice_and]
  by_cases hc : n ∈ conditionNotices
  · rw [decide_eq_true hc]
    cases hasNotice s.sc.latched n <;> cases hasNotice w n <;> rfl
  · rw [not_conditionHolds hc]
    simp

theorem noticesCleared_condition (s : State) (w : Word) {c : Notice × Bool} (hc : c ∈ s.conditions) :
    hasNotice (s.noticesCleared w).sc.latched c.1 = (hasNotice s.sc.latched c.1 && (!hasNotice w c.1 || c.2)) := by
  rw [conditions_eq] at hc
  obtain ⟨n, hn, rfl⟩ := List.mem_map.1 hc
  refine noticesCleared_hasNotice s w ?_
  rintro rfl
  exact absurd hn (by decide)

theorem noticesCleared_event (s : State) (w : Word) {n : Notice} (hn : n ∈ eventNotices) :
    hasNotice (s.noticesCleared w).sc.latched n = (hasNotice s.sc.latched n && !hasNotice w n) := by
  obtain ⟨htx, hc⟩ := eventNotices_of_mem hn
  rw [noticesCleared_hasNotice s w htx, not_conditionHolds hc, Bool.or_false]

end Sys2Proof.Machine
end

section
/-!
LINE_CLEAR (O40): which frames are taken, the station after a taken one as a whole, and what stands at its heads.
-/
namespace Sys2Proof

/-- A change at some members, one after another, is the change at each of them. -/
theorem PerHead.get_foldl_upd {α : Type} {l : List LocalHead} (hl : l.Nodup) (p : PerHead α) (f : α → α)
    (i : LocalHead) : (l.foldl (fun q j => q.upd j f) p).get i = if i ∈ l then f (p.get i) else p.get i := by
  induction l generalizing p with
  | nil => simp
  | cons j l ih =>
    obtain ⟨hj, hl⟩ := List.nodup_cons.1 hl
    rw [List.foldl_cons, ih hl, PerHead.get_upd]
    by_cases hij : i = j
    · simp [hij, hj]
    · simp [hij]

end Sys2Proof

namespace Sys2Proof.Machine

/-! ## The frame -/

theorem exec_lineClear {s t : State} {dt : Nat} {src : Address} (ht : s.heard dt src = t)
    (hr : (s.elapse dt).reads = true) (p : BitVec 16) :
    exec (.lineClear dt src p) s = .next (t.takeLineClear src p) :=
  exec_receive (c := .lineClear dt src p) (owner := fun u => u.takeLineClear src p) rfl rfl ht hr

/-- A LINE_CLEAR is taken from a PANEL, in STOPPED or JOG, for this station or all (R154). -/
theorem lineClear_taken_iff (s : State) (src : Address) (a : Nat) :
    (s.fromPanel src && s.sc.mode != .running && s.targeted a) = true ↔
      (s.sc.mode = .stopped ∨ s.sc.mode = .jog) ∧ s.roleOf src = some .panel ∧ (a = s.addr.toNat ∨ a = 255) := by
  have hmode : s.joined = true ∧ s.sc.mode ≠ .running ↔ s.sc.mode = .stopped ∨ s.sc.mode = .jog := by
    unfold State.joined
    cases s.sc.mode <;> decide
  simp only [Bool.and_eq_true, fromPanel_iff, bne_iff_ne, State.targeted, decide_eq_true_eq, ← hmode]
  tauto

/-! ## The station after a LINE_CLEAR -/

/-- What the trims option makes of a head's holdings in the present mode (R145, R156). -/
def State.trimCleared (s : State) (v : VerdictSlot) : VerdictSlot :=
  if s.sc.mode = .jog then { v with trimDue := true } else { v with trim := 0 }

theorem clearCounts_eq (s : State) : s.clearCounts = { s with
    counters := .zero, headCounters := s.owned.foldl (fun c i => c.upd i fun _ => .zero) s.headCounters } :=
  List.foldl_hom (fun c => ({ s with counters := .zero, headCounters := c } : State)) fun _ _ => rfl

theorem clearTrims_eq (s : State) : s.eachOwned State.clearTrim = { s with
    vu := { s.vu with slots := s.owned.foldl (fun c i => c.upd i s.trimCleared) s.vu.slots } } :=
  List.foldl_hom (fun c => ({ s with vu := { s.vu with slots := c } } : State)) fun _ _ => rfl

/-- The station with its queues emptied and its notices cleared, before the options (R155). -/
def State.clearedOut (s : State) : State :=
  s.emptied.clearNotices 0xFFFF

theorem clearedOut_only (s : State) :
    ChangesOnly ([.records, .awaiting, .silentRun] ++ reporting) s s.clearedOut :=
  (emptied_only s).comp (clearNotices_only _ _)

/-- The options move the counters and what is learned at the heads, and nothing else (R156). -/
theorem lineClear_eq (s : State) (counters trims : Bool) :
    let t := s.clearedOut
    s.lineClear counters trims = { t with
      counters := if counters then .zero else t.counters,
      headCounters :=
        if counters then t.owned.foldl (fun c i => c.upd i fun _ => .zero) t.headCounters else t.headCounters,
      vu := { t.vu with
        slots := if trims then t.owned.foldl (fun c i => c.upd i t.trimCleared) t.vu.slots else t.vu.slots } } := by
  unfold State.lineClear
  cases counters with
  | false =>
    cases trims with
    | false => rfl
    | true => exact clearTrims_eq _
  | true =>
    cases trims with
    | false => exact clearCounts_eq _
    | true => exact (congrArg (State.eachOwned · State.clearTrim) (clearCounts_eq _)).trans (clearTrims_eq _)

section
variable (s : State) (counters trims : Bool)

theorem lineClear_lbi : (s.lineClear counters trims).lbi = s.clearedOut.lbi := by
  rw [lineClear_eq]

theorem lineClear_sc : (s.lineClear counters trims).sc = s.clearedOut.sc := by
  rw [lineClear_eq]

theorem lineClear_empties : (s.lineClear counters trims).rq = [] ∧ (s.lineClear counters trims).vu.awaiting = []
    ∧ (s.lineClear counters trims).vu.noVerdictRun = 0 := by
  have h := clearNotices_only s.emptied 0xFFFF
  rw [lineClear_eq]
  exact ⟨h.keeps .records (by decide), h.keeps .awaiting (by decide), h.keeps .silentRun (by decide)⟩

/-- A condition notice stands where it stood and its condition holds (R155, R178). -/
theorem lineClear_condition {c : Notice × Bool} (hc : c ∈ s.conditions) :
    hasNotice (s.lineClear counters trims).sc.latched c.1 = (hasNotice s.sc.latched c.1 && c.2) := by
  have h : hasNotice (s.emptied.noticesCleared 0xFFFF).sc.latched c.1
      = (hasNotice s.sc.latched c.1 && (!hasNotice 0xFFFF c.1 || c.2)) := noticesCleared_condition s.emptied _ hc
  rw [lineClear_sc, State.clearedOut, clearNotices_eq_noticesCleared, h, hasNotice_allOnes]
  rfl

theorem lineClear_event {n : Notice} (hn : n ∈ eventNotices) :
    hasNotice (s.lineClear counters trims).sc.latched n = false := by
  rw [lineClear_sc, State.clearedOut, clearNotices_eq_noticesCleared, noticesCleared_event _ _ hn, hasNotice_allOnes]
  exact Bool.and_false _

theorem lineClear_counters : (s.lineClear true trims).counters = .zero ∧
    ∀ i, s.owns i = true → (s.lineClear true trims).headCounters.get i = .zero := by
  have ho := owned_of_same ((clearedOut_only s).keeps .resetting (by decide))
  rw [lineClear_eq]
  refine ⟨rfl, fun i hi => (PerHead.get_foldl_upd (owned_nodup _) _ _ i).trans (if_pos ?_)⟩
  rw [ho]
  exact mem_owned.2 hi

theorem lineClear_keepsCounters :
    (s.lineClear false trims).counters = { s.counters with txDrops := s.clearedOut.counters.txDrops }
      ∧ (s.lineClear false trims).headCounters = s.headCounters := by
  have h := clearedOut_only s
  have hk := counters_of_only h (by decide)
  rw [lineClear_eq]
  exact ⟨hk, PerHead.ext_get fun i => h.keeps (.headCounts i) (by simp [reporting])⟩

theorem lineClear_learned (i : LocalHead) : (s.lineClear counters trims).learned i =
    if trims = true ∧ s.owns i = true then s.trimCleared (s.learned i) else s.learned i := by
  have h := clearedOut_only s
  have hl : s.clearedOut.learned i = s.learned i := h.keeps (.learned i) (by simp [reporting])
  have hm : s.clearedOut.sc.mode = s.sc.mode := h.keeps .mode (by decide)
  have ho := owned_of_same (h.keeps .resetting (by decide))
  rw [lineClear_eq]
  cases trims with
  | false => exact hl.trans (if_neg (by simp)).symm
  | true =>
    refine (PerHead.get_foldl_upd (owned_nodup _) _ _ i).trans ?_
    simp only [ho, mem_owned, true_and]
    exact if_congr Iff.rfl (by rw [State.trimCleared, hm]; exact congrArg s.trimCleared hl) hl

end

/-- Settles O40: the station after a taken LINE_CLEAR is that of `lineClear_eq`, its notices those of R178's clear. -/
theorem lineClearEmptiesAndAppliesOptions : Obligations.LineClearEmptiesAndAppliesOptions := by
  unfold Obligations.LineClearEmptiesAndAppliesOptions
  intro s t dt src p ht hr taken cleared
  have hc : t.clearedOut = cleared := clearNotices_eq_noticesCleared _ _
  rw [exec_lineClear ht hr p]
  have honly := takeLineClear_only t src p
  unfold State.takeLineClear at honly ⊢
  refine ⟨fun h => by rw [if_neg (mt (lineClear_taken_iff t src _).1 h)], fun h => ?_⟩
  rw [if_pos ((lineClear_taken_iff t src _).2 h)] at honly ⊢
  obtain ⟨hrq, haw, hrun⟩ := lineClear_empties t (clearCounters p) (clearTrims p)
  refine ⟨_, rfl, hrq, haw, hrun, (lineClear_lbi t _ _).trans (congrArg State.lbi hc),
    (lineClear_sc t _ _).trans (congrArg State.sc hc), fun _ => lineClear_condition t _ _, fun _ => lineClear_event t _ _,
    honly.keeps .mask (by decide), fun h => ?_, fun h => ?_, lineClear_learned t _ _, honly⟩
  · rw [h]
    exact lineClear_counters t _
  · rw [h, ← hc]
    exact lineClear_keepsCounters t _

end Sys2Proof.Machine
end

section
/-!
The transmit queue (O55): where an arriving frame stands, the law of the queue, and what keeps it in the shared
operations, the head cycle, the draw table and the angle events.
-/
namespace Sys2Proof.Machine

/-! ## The place of a frame -/

theorem insertTx_perm (e : TxEntry) (q : List TxEntry) : (insertTx e q).Perm (e :: q) := by
  induction q with
  | nil => exact .refl _
  | cons x xs ih =>
    unfold insertTx
    split
    · exact .refl _
    · exact (ih.cons x).trans (.swap e x xs)

/-- A frame goes ahead of another by class, and within a class by age (R162). -/
theorem ahead_iff (a b : TxEntry) : a.ahead b = true ↔
    a.frame.cls < b.frame.cls ∨ a.frame.cls = b.frame.cls ∧ a.age < b.age := by
  simp [TxEntry.ahead]

/-- In a queue in order a frame stands behind those that go ahead of it and before the others (R162). -/
theorem insertTx_eq_filter {e : TxEntry} {q : List TxEntry} (hq : q.Pairwise fun a b => a.ahead b = true)
    (he : ∀ x ∈ q, x.age ≠ e.age) :
    insertTx e q = q.filter (fun x => x.ahead e) ++ e :: q.filter fun x => !x.ahead e := by
  induction q with
  | nil => rfl
  | cons x xs ih =>
    obtain ⟨hx, hxs⟩ := List.pairwise_cons.1 hq
    have hxe := he x List.mem_cons_self
    unfold insertTx
    split
    · next h =>
      have hnot : ∀ y ∈ x :: xs, y.ahead e = false := by
        intro y hy
        rw [← Bool.not_eq_true, ahead_iff]
        rw [ahead_iff] at h
        rcases List.mem_cons.1 hy with rfl | hy
        · omega
        · have := (ahead_iff x y).1 (hx y hy)
          omega
      rw [List.filter_eq_nil_iff.2 fun y hy => by simp [hnot y hy],
        List.filter_eq_self.2 fun y hy => by simp [hnot y hy]]
      rfl
    · next h =>
      have hgo : x.ahead e = true := by
        rw [ahead_iff] at h ⊢
        omega
      rw [ih hxs fun y hy => he y (List.mem_cons_of_mem _ hy)]
      simp [hgo]

theorem insertTx_pairwise {e : TxEntry} {q : List TxEntry} (hq : q.Pairwise fun a b => a.ahead b = true)
    (he : ∀ x ∈ q, x.age ≠ e.age) : (insertTx e q).Pairwise fun a b => a.ahead b = true := by
  have hbefore : ∀ x ∈ q.filter (fun x => x.ahead e), x.ahead e = true := fun x hx => (List.mem_filter.1 hx).2
  have hafter : ∀ y ∈ q.filter (fun x => !x.ahead e), e.ahead y = true := by
    intro y hy
    obtain ⟨hy, h⟩ := List.mem_filter.1 hy
    have hage := he y hy
    rw [Bool.not_eq_true', ← Bool.not_eq_true, ahead_iff] at h
    rw [ahead_iff]
    omega
  rw [insertTx_eq_filter hq he, List.pairwise_append, List.pairwise_cons]
  refine ⟨hq.filter _, ⟨hafter, hq.filter _⟩, fun x hx y hy => ?_⟩
  rcases List.mem_cons.1 hy with rfl | hy
  · exact hbefore x hx
  · have h₁ := (ahead_iff x e).1 (hbefore x hx)
    have h₂ := (ahead_iff e y).1 (hafter y hy)
    rw [ahead_iff]
    omega

/-- An arriving frame is lost, or it takes its place among frames that were waiting (R163). -/
theorem placeTx_places (e : TxEntry) (q : List TxEntry) :
    (placeTx e q).1 = q ∨ ∃ r, List.Sublist r q ∧ (placeTx e q).1 = insertTx e r := by
  unfold placeTx
  split
  · exact .inr ⟨q, .refl _, rfl⟩
  · split
    · split
      · exact .inr ⟨q.dropLast, List.dropLast_sublist q, rfl⟩
      · exact .inl rfl
    · exact .inl rfl

theorem mem_placeTx {e x : TxEntry} {q : List TxEntry} (h : x ∈ (placeTx e q).1) : x = e ∨ x ∈ q := by
  rcases placeTx_places e q with hq | ⟨r, hr, hq⟩
  · exact .inr (hq ▸ h)
  · rw [hq, mem_insertTx] at h
    exact h.imp_right fun hx => hr.subset hx

/-! ## The law -/

/-- A queue in order, with at most one NOTICE and no age twice (R162, R165). -/
structure QueueLaw (q : List TxEntry) : Prop where
  sorted : q.Pairwise fun a b => a.ahead b = true
  notices : (q.filter fun e => e.frame.isNotice).length ≤ 1
  ages : (q.map (·.age)).Nodup

theorem QueueLaw.nil : QueueLaw [] :=
  ⟨.nil, Nat.zero_le _, .nil⟩

theorem QueueLaw.sublist {q r : List TxEntry} (h : QueueLaw q) (hr : List.Sublist r q) : QueueLaw r where
  sorted := h.sorted.sublist hr
  notices := (hr.filter _).length_le.trans h.notices
  ages := h.ages.sublist (hr.map _)

theorem QueueLaw.insertTx {q : List TxEntry} (h : QueueLaw q) {e : TxEntry} (hage : ∀ x ∈ q, x.age ≠ e.age)
    (hnotice : e.frame.isNotice = true → ∀ x ∈ q, x.frame.isNotice = false) : QueueLaw (insertTx e q) where
  sorted := insertTx_pairwise h.sorted hage
  notices := by
    rw [((insertTx_perm e q).filter _).length_eq, List.filter_cons]
    split
    · next hn =>
      have hnone : q.filter (fun x => x.frame.isNotice) = [] :=
        List.filter_eq_nil_iff.2 fun x hx => by simp [hnotice hn x hx]
      simp [hnone]
    · exact h.notices
  ages := by
    rw [((insertTx_perm e q).map _).nodup_iff, List.map_cons, List.nodup_cons]
    refine ⟨fun hm => ?_, h.ages⟩
    obtain ⟨x, hx, hxe⟩ := List.mem_map.1 hm
    exact hage x hx hxe

/-- The law of this file: what the statement says of the queue, the ages and the frame in flight. -/
structure State.InOrder (s : State) : Prop where
  queue : QueueLaw s.lbi.queue
  used : ∀ e ∈ s.lbi.queue, e.age < s.lbi.nextAge
  flight : ∀ f ∈ s.lbi.inFlight, f.entry.age < s.lbi.nextAge ∧ ∀ e ∈ s.lbi.queue, e.age ≠ f.entry.age

theorem inOrder_iff {s : State} : s.InOrder ↔ s.queueInOrder :=
  ⟨fun ⟨⟨hs, hn, ha⟩, hu, hf⟩ => ⟨hs, hn, ha, hu, hf⟩, fun ⟨hs, hn, ha, hu, hf⟩ => ⟨⟨hs, hn, ha⟩, hu, hf⟩⟩

/-- From `s` to `t` the law is kept. -/
def KeepsOrder (s t : State) : Prop :=
  s.InOrder → t.InOrder

theorem KeepsOrder.refl (s : State) : KeepsOrder s s :=
  id

theorem KeepsOrder.trans {s t u : State} (h₁ : KeepsOrder s t) (h₂ : KeepsOrder t u) : KeepsOrder s u :=
  h₂ ∘ h₁

theorem KeepsOrder.ite {c : Prop} [Decidable c] {s t u : State} (h₁ : c → KeepsOrder s t) (h₂ : ¬c → KeepsOrder s u) :
    KeepsOrder s (if c then t else u) := by
  split
  · exact h₁ ‹_›
  · exact h₂ ‹_›

theorem KeepsOrder.eachOwned (s : State) {act : LocalHead → State → State} (h : ∀ i t, KeepsOrder t (act i t)) :
    KeepsOrder s (s.eachOwned act) :=
  fun hs => foldl_keeps (P := State.InOrder) hs fun i _ t => h i t

/-- The pieces that the law speaks of. -/
def orderPieces : List Piece :=
  [.queue, .inFlight]

theorem KeepsOrder.of_only {ps : List Piece} {s t : State} (h : ChangesOnly ps s t) (hd : ∀ p ∈ orderPieces, p ∉ ps) :
    KeepsOrder s t := by
  obtain ⟨hq, ha⟩ := h.keeps .queue (hd _ (by decide))
  have hf := h.keeps .inFlight (hd _ (by decide))
  simp only [Piece.same] at hf
  rintro ⟨hl, hu, hi⟩
  refine ⟨hq ▸ hl, ?_, ?_⟩
  · rw [hq, ha]
    exact hu
  · rw [hf, hq, ha]
    exact hi

/-- Frames that leave the queue leave the others in order. -/
theorem setQueue_order {s : State} {q : List TxEntry} (hq : List.Sublist q s.lbi.queue) :
    KeepsOrder s { s with lbi := { s.lbi with queue := q } } := fun h =>
  { queue := h.queue.sublist hq
    used := fun e he => h.used e (hq.subset he)
    flight := fun f hf => ⟨(h.flight f hf).1, fun e he => (h.flight f hf).2 e (hq.subset he)⟩ }

/-- A frame leaves the bus. -/
theorem clearFlight_order (s : State) : KeepsOrder s { s with lbi := { s.lbi with inFlight := none } } := fun h =>
  { h with flight := fun f hf => by cases hf }

/-! ## Arrivals -/

/-- A frame can arrive: its age is used and is no other's, and it is no second NOTICE (R162, R165). -/
structure State.MayArrive (s : State) (e : TxEntry) : Prop where
  used : e.age < s.lbi.nextAge
  queued : ∀ x ∈ s.lbi.queue, x.age ≠ e.age
  flying : ∀ f ∈ s.lbi.inFlight, e.age ≠ f.entry.age
  notice : e.frame.isNotice = true → s.noticeWaits = false

theorem noticeWaits_false {s : State} : s.noticeWaits = false ↔ ∀ x ∈ s.lbi.queue, x.frame.isNotice = false := by
  simp [State.noticeWaits]

theorem arrive_order {s : State} (h : s.InOrder) {e : TxEntry} (he : s.MayArrive e) : (s.arrive e).InOrder where
  queue := by
    show QueueLaw (placeTx e s.lbi.queue).1
    rcases placeTx_places e s.lbi.queue with hq | ⟨r, hr, hq⟩
    · rw [hq]
      exact h.queue
    · rw [hq]
      exact (h.queue.sublist hr).insertTx (fun x hx => he.queued x (hr.subset hx)) fun hn x hx =>
        noticeWaits_false.1 (he.notice hn) x (hr.subset hx)
  used x hx := by
    rcases mem_placeTx hx with rfl | hx
    · exact he.used
    · exact h.used x hx
  flight f hf := by
    refine ⟨(h.flight f hf).1, fun x hx => ?_⟩
    rcases mem_placeTx hx with rfl | hx
    · exact he.flying f hf
    · exact (h.flight f hf).2 x hx

theorem nextAge_order (s : State) : KeepsOrder s s.nextAge := fun h =>
  { h with
    used := fun e he => (h.used e he).trans (Nat.lt_succ_self _)
    flight := fun f hf => ⟨(h.flight f hf).1.trans (Nat.lt_succ_self _), (h.flight f hf).2⟩ }

/-- A new frame has an age of its own (R162, log 20). -/
theorem newEntry_mayArrive {s : State} (h : s.InOrder) {f : TxFrame} (hn : f.isNotice = true → s.noticeWaits = false) :
    s.nextAge.MayArrive (s.newEntry f) where
  used := Nat.lt_succ_self _
  queued x hx := (h.used x hx).ne
  flying g hg := (h.flight g hg).1.ne'
  notice := hn

theorem setLatched_order (s : State) (n : Notice) : KeepsOrder s (s.setLatched n) :=
  .of_only (setLatched_only s n) (by decide)

/-- TX_DROP asks for its NOTICE where none waits (R179). -/
theorem latchTxDrop_order (s : State) : KeepsOrder s s.latchTxDrop := by
  refine .ite (fun _ => .refl s) fun _ => .ite (fun _ => setLatched_order s _) fun hn h => ?_
  have ht := setLatched_order s .txDrop h
  rw [Bool.not_eq_true, Bool.or_eq_false_iff] at hn
  exact arrive_order (nextAge_order _ ht) (newEntry_mayArrive ht fun _ => hn.2)

theorem enter_order {s : State} (h : s.InOrder) {e : TxEntry} (he : s.MayArrive e) : (s.enter e).InOrder := by
  have ha := arrive_order h he
  unfold State.enter
  split
  · exact ha
  · exact KeepsOrder.of_only ((takeLoss_only _ _).mono (lossPieces_sub _ _)) (by decide) (latchTxDrop_order _ ha)

theorem handIn_order (s : State) {f : TxFrame} (hn : f.isNotice = true → s.noticeWaits = false) :
    KeepsOrder s (s.handIn f) :=
  fun h => enter_order (nextAge_order s h) (newEntry_mayArrive h hn)

/-- A frame other than a NOTICE is handed in whatever waits. -/
theorem send_order (s : State) {f : TxFrame} (hf : f.isNotice = false) : KeepsOrder s (s.handIn f) :=
  handIn_order s fun h => by simp [hf] at h

/-! ## Notices -/

theorem requestNotice_order (s : State) : KeepsOrder s s.requestNotice :=
  .ite (fun _ => .refl s) fun h => handIn_order s fun _ => by simpa using h

theorem latch_order (s : State) (n : Notice) : KeepsOrder s (s.latch n) :=
  .ite (fun _ => .refl s) fun _ => .ite (fun _ => setLatched_order s n) fun _ =>
    (setLatched_order s n).trans (requestNotice_order _)

theorem clearNotices_order (s : State) (w : Word) : KeepsOrder s (s.clearNotices w) := by
  have hr : ∀ (v : Word) (t : State) (n : Notice), KeepsOrder t (State.relatch v t n) := fun v t n =>
    .ite (fun _ => latch_order t n) fun _ => .refl t
  have hw : KeepsOrder s { s with sc := { s.sc with latched := s.sc.latched &&& ~~~w } } := fun h => { h with }
  unfold State.clearNotices
  simp only [List.foldl_cons, List.foldl_nil]
  exact hw.trans ((hr _ _ _).trans ((hr _ _ _).trans ((hr _ _ _).trans (hr _ _ _))))

theorem changeMask_order (s : State) (m : Word) : KeepsOrder s (s.changeMask m) := by
  have hm : KeepsOrder s { s with sc := { s.sc with mask := m } } := fun h => { h with }
  exact .ite (fun _ => hm) fun _ => hm.trans (requestNotice_order _)

/-! ## The bench and the end of a cycle -/

theorem updHead_order (s : State) (i : LocalHead) (f : Head → Head) : KeepsOrder s (s.updHead i f) :=
  .of_only (updHead_only s i f) (by simp [orderPieces])

theorem updClaim_order (s : State) (i : LocalHead) (f : Claim → Claim) : KeepsOrder s (s.updClaim i f) :=
  .of_only (updClaim_only s i f) (by simp [orderPieces])

theorem updLearned_order (s : State) (i : LocalHead) (f : VerdictSlot → VerdictSlot) :
    KeepsOrder s (s.updLearned i f) :=
  .of_only (updLearned_only s i f) (by simp [orderPieces])

theorem count_order (s : State) (f : Counters → Counters) : KeepsOrder s (s.count f) :=
  fun h => { h with }

theorem withdrawClaim_order (s : State) (i : LocalHead) : KeepsOrder s (s.withdrawClaim i) := by
  unfold State.withdrawClaim
  split
  · exact .refl s
  · exact .refl s
  · exact (setQueue_order List.filter_sublist).trans ((updClaim_order _ i _).trans (updHead_order _ i _))
  · exact (updClaim_order s i _).trans (updHead_order _ i _)

theorem benchHead_order (s : State) (i : LocalHead) (r : BenchReason) : KeepsOrder s (s.benchHead i r) :=
  .ite (fun _ => .refl s) fun _ => (updHead_order s i _).trans ((withdrawClaim_order _ i).trans ((latch_order _ _).trans
    (send_order _ rfl)))

theorem driveFailed_order (s : State) (i : LocalHead) : KeepsOrder s (s.driveFailed i) :=
  .ite (fun _ => (updHead_order s i _).trans ((latch_order _ _).trans (benchHead_order _ i _))) fun _ =>
    updHead_order s i _

theorem reportJar_order (s : State) (i : LocalHead) (b : Bool) (r : JarReport) : KeepsOrder s (s.reportJar i b r) :=
  (KeepsOrder.of_only (updCounters_only s i _) (by simp [orderPieces])).trans (send_order _ rfl)

theorem handOffJar_order (s : State) (i : LocalHead) (o : JarOutcome) : KeepsOrder s (s.handOffJar i o) := by
  have hs : ∀ l, KeepsOrder s { s with vu := { s.vu with awaiting := l } } := fun _ h => { h with }
  exact .ite (fun _ => .ite (fun _ => hs _) fun _ => (hs _).trans ((count_order _ _).trans (latch_order _ _))) fun _ =>
    .refl s

theorem finish_order (s : State) (i : LocalHead) (o : JarOutcome) (torque angle : Nat) :
    KeepsOrder s (s.finish i o torque angle) :=
  (reportJar_order s i _ _).trans ((handOffJar_order _ i o).trans ((updHead_order _ i _).trans
    (.of_only (detachCycle_only _ i) (by decide))))

/-! ## Valves and claims -/

theorem markJog_order (s : State) (i : LocalHead) : KeepsOrder s (s.markJog i) :=
  .of_only (markJog_only s i) (by simp [orderPieces])

theorem flag_order (s : State) (i : LocalHead) (f : JarFlag) : KeepsOrder s (s.flag i f) :=
  updHead_order s i _

theorem closeValve_order (s : State) (i : LocalHead) : KeepsOrder s (s.closeValve i) :=
  (updHead_order s i _).trans (send_order _ rfl)

theorem reportAdmission_order (s : State) (i : LocalHead) (dwell : Nat) (x : Bool) :
    KeepsOrder s (s.reportAdmission i dwell x) :=
  .ite (fun _ => (updHead_order s i _).trans (markJog_order _ i)) fun _ => send_order s rfl

theorem writeEntry_order (s : State) (src : Address) (g f dwell : Nat) : KeepsOrder s (s.writeEntry src g f dwell) :=
  .of_only (writeEntry_only s src g f dwell) (by decide)

/-- A claim refused is counted and takes no place in the queue (R71). -/
theorem claimRefused_order (s : State) (i : LocalHead) (f : Counters → Counters) :
    KeepsOrder s ((s.count f).claimRefused i) :=
  (count_order s f).trans (.of_only (claimRefused_only _ i) (by simp [orderPieces]))

theorem announce_order (s : State) (i : LocalHead) (c : Claim) : KeepsOrder s (s.announce i c) :=
  .ite
    (fun _ => .ite
      (fun _ => (writeEntry_order s _ _ _ _).trans ((updClaim_order _ i _).trans ((reportAdmission_order _ i _ _).trans
        (send_order _ rfl))))
      fun _ => (updClaim_order s i _).trans (claimRefused_order _ i _))
    fun _ => (updClaim_order s i _).trans (send_order _ rfl)

theorem formClaim_order (s : State) (i : LocalHead) : KeepsOrder s (s.formClaim i) := by
  unfold State.formClaim
  dsimp only
  split
  · exact (updClaim_order s i _).trans (updHead_order _ i _)
  · split
    · exact (flag_order s i _).trans (announce_order _ i _)
    · exact announce_order s i _

theorem recheckClaims_order (s : State) : KeepsOrder s s.recheckClaims :=
  .eachOwned s fun i t => .ite (fun _ => withdrawClaim_order t i) fun _ => .refl t

/-! ## Abort -/

theorem abortSteam_order (s : State) (i : LocalHead) : KeepsOrder s (s.abortSteam i) :=
  .ite (fun _ => (withdrawClaim_order s i).trans (closeValve_order _ i)) fun _ => withdrawClaim_order s i

theorem abortHead_order (i : LocalHead) (s : State) : KeepsOrder s (State.abortHead i s) := by
  by_cases h : (s.head i).phase = .idle
  · rw [abortHead_idle h]
    exact .refl s
  · rw [abortHead_open h]
    exact (KeepsOrder.of_only (aborting_only s i) (by simp [orderPieces])).trans ((abortSteam_order _ i).trans
      ((KeepsOrder.of_only (abortDrive_only _ i _) (by simp [orderPieces])).trans (finish_order _ i _ _ _)))

theorem abortAll_order (s : State) : KeepsOrder s s.abortAll :=
  .eachOwned s abortHead_order

/-! ## Angle events -/

theorem withdraw_order (s : State) (i : LocalHead) (k : DriveKind) : KeepsOrder s (s.withdraw i k) :=
  .of_only (withdraw_only s i k) (by simp [orderPieces])

theorem setPhase_order (s : State) (i : LocalHead) (p : Phase) : KeepsOrder s (s.setPhase i p) :=
  updHead_order s i _

theorem closeOut_order (s : State) (i : LocalHead) : KeepsOrder s (s.closeOut i) :=
  (withdraw_order s i _).trans ((flag_order _ i _).trans ((markJog_order _ i).trans ((finish_order _ i _ _ _).trans
    (driveFailed_order _ i))))

theorem beginCycle_order (s : State) (i : LocalHead) (r : Option JarRecord) : KeepsOrder s (s.beginCycle i r) := by
  have hr : KeepsOrder s (s.recordChecked r) :=
    .ite (fun _ => (count_order s _).trans (latch_order _ _)) fun _ => .refl s
  exact hr.trans ((updHead_order _ i _).trans (.of_only (request_only _ i _) (by simp [orderPieces])))

theorem idlePass_order (s : State) (i : LocalHead) (jar : Bool) : KeepsOrder s (s.idlePass i jar) := by
  have ht := fun f => (KeepsOrder.of_only (takeRecords_only s (s.globalHead i)) (by decide)).trans (count_order _ f)
  exact .ite (fun _ => ht _) fun _ => .ite (fun _ => (ht _).trans (reportJar_order _ i _ _)) fun _ =>
    .ite (fun _ => (ht _).trans (beginCycle_order _ i _)) fun _ => (ht _).trans (reportJar_order _ i _ _)

theorem infeedPass_order (s : State) (i : LocalHead) (jar : Bool) : KeepsOrder s (s.infeedPass i jar) := by
  unfold State.infeedPass
  split
  · exact idlePass_order s i jar
  · exact (closeOut_order s i).trans (idlePass_order _ i jar)
  all_goals exact .refl s

theorem capPick_order (s : State) (i : LocalHead) (cap : Bool) : KeepsOrder s (s.capPick i cap) :=
  .ite
    (fun _ => .ite (fun _ => (markJog_order s i).trans (setPhase_order _ i _)) fun _ =>
      (markJog_order s i).trans ((flag_order _ i _).trans ((withdraw_order _ i _).trans (finish_order _ i _ _ _))))
    fun _ => .refl s

theorem flushStart_order (s : State) (i : LocalHead) : KeepsOrder s (s.flushStart i) := by
  have h := (markJog_order s i).trans (setPhase_order _ i .claiming)
  exact .ite (fun _ => .ite (fun _ => h.trans (updHead_order _ i _)) fun _ =>
    .ite (fun _ => h.trans (formClaim_order _ i)) fun _ => h) fun _ => .refl s

theorem seat_order (s : State) (i : LocalHead) : KeepsOrder s (s.seat i) := by
  have h := (markJog_order s i).trans (withdrawClaim_order _ i)
  unfold State.seat
  split
  · dsimp only
    split
    · exact h.trans ((flag_order _ i _).trans ((closeValve_order _ i).trans (setPhase_order _ i _)))
    · exact h.trans (setPhase_order _ i _)
  · exact h.trans ((flag_order _ i _).trans (updHead_order _ i _))
  all_goals exact .refl s

theorem updSlot_order (s : State) (i : LocalHead) (f : DriveSlot → DriveSlot) : KeepsOrder s (s.updSlot i f) :=
  .of_only (updSlot_only s i f) (by simp [orderPieces])

/-- Torque start and release hand nothing in. -/
theorem torqueStart_order (s : State) (i : LocalHead) : KeepsOrder s (s.torqueStart i) := by
  by_cases h : (s.head i).phase = .pressed
  · rw [torqueStart_pressed h]
    exact (updHead_order s i _).trans (updSlot_order _ i _)
  · exact .ite (fun hp => absurd hp h) fun _ => .refl s

theorem release_order (s : State) (i : LocalHead) : KeepsOrder s (s.release i) := by
  by_cases h : (s.head i).phase = .torquing
  · rw [release_torquing h]
    exact (updHead_order s i _).trans (updSlot_order _ i _)
  · exact .ite (fun hp => absurd hp h) fun _ => .refl s

theorem raiseEvent_order (jp cp : BitVec 4) (i : LocalHead) (s : State) :
    KeepsOrder s (State.raiseEvent jp cp i s) := by
  unfold State.raiseEvent
  split
  · next e _ =>
    cases e with
    | infeed => exact infeedPass_order s i _
    | capPick => exact capPick_order s i _
    | flushStart => exact flushStart_order s i
    | seat => exact seat_order s i
    | torqueStart => exact torqueStart_order s i
    | release => exact release_order s i
  · exact .refl s

end Sys2Proof.Machine
end

section
/-!
The transmit queue through the counts, the blocks' own steps, the bus and the resets, and the statement (O55).
-/
namespace Sys2Proof.Machine

/-! ## Counts -/

theorem setTtu_order (s : State) (u : Ttu) : KeepsOrder s { s with ttu := u } :=
  .of_only (setTtu_only s u) (by decide)

theorem crossing_order (s : State) (jp cp : BitVec 4) : KeepsOrder s (s.crossing jp cp) := by
  have h : ∀ t : State, KeepsOrder t ((t.eachOwned (State.raiseEvent jp cp)).recheckClaims) := fun t =>
    (KeepsOrder.eachOwned t (raiseEvent_order jp cp)).trans (recheckClaims_order _)
  unfold State.crossing
  dsimp only
  split
  · exact (setTtu_order s _).trans (h _)
  · exact h s

theorem forwardMove_order (s : State) (jp cp : BitVec 4) : KeepsOrder s (s.forwardMove jp cp) :=
  .ite (fun _ => (setTtu_order s _).trans (crossing_order _ jp cp)) fun _ => setTtu_order s _

theorem forwardCount_order (s : State) (jp cp : BitVec 4) : KeepsOrder s (s.forwardCount jp cp) :=
  .ite (fun _ => (setTtu_order s _).trans (forwardMove_order _ jp cp)) fun _ => setTtu_order s _

theorem beginReverse_order (s : State) (d : Direction) : KeepsOrder s (s.beginReverse d) :=
  .ite (fun _ => latch_order s _) fun _ => .refl s

theorem reverseCount_order (s : State) : KeepsOrder s s.reverseCount := by
  cases hr : s.ttu.referenced with
  | true =>
    have h : KeepsOrder s s.movedBack.abortAll := (setTtu_order s _).trans (abortAll_order _)
    rw [reverseCount_referenced hr]
    exact .ite (fun _ => h.trans (latch_order _ _)) fun _ => h
  | false =>
    rw [reverseCount_unreferenced hr]
    exact (setTtu_order s _).trans (beginReverse_order _ _)

theorem illegalStep_order (s : State) : KeepsOrder s s.illegalStep :=
  .ite (fun _ => (latch_order s _).trans ((abortAll_order _).trans (setTtu_order _ _))) fun _ => latch_order s _

theorem correctForward_order (jp cp : BitVec 4) (n : Nat) (s : State) :
    KeepsOrder s (State.correctForward jp cp n s) := by
  induction n generalizing s with
  | zero => exact .refl s
  | succ n ih => exact (forwardMove_order s jp cp).trans (ih _)

theorem zeroMark_order (s : State) (jp cp : BitVec 4) : KeepsOrder s (s.zeroMark jp cp) :=
  .ite (fun _ => setTtu_order s _) fun _ =>
    .ite (fun _ => (latch_order s _).trans ((abortAll_order _).trans (setTtu_order _ _))) fun _ =>
      .ite (fun _ => .refl s) fun _ => .ite (fun _ => setTtu_order s _) fun _ => correctForward_order jp cp _ s

/-! ## Records and steam -/

theorem takeRecord_order (s : State) (src : Address) (p : BitVec 64) : KeepsOrder s (s.takeRecord src p) := by
  have hq : ∀ (t : State) (l : List JarRecord), KeepsOrder t { t with rq := l } := fun _ _ h => { h with }
  have ha : ∀ r, KeepsOrder s (s.appendRecord r) := fun r => by
    rcases Nat.lt_or_ge s.rq.length 32 with h | h
    · rw [appendRecord_room h]
      exact hq s _
    · rw [appendRecord_full h]
      exact (hq s _).trans ((count_order _ _).trans ((latch_order _ _).trans (hq _ _)))
  exact .ite (fun _ => .refl s) fun _ => .ite (fun _ => count_order s _) fun _ => .ite (fun _ => .refl s) fun _ =>
    .ite (fun _ => count_order s _) fun _ => .ite (fun _ => count_order s _) fun _ => ha _

theorem claimEcho_order (s : State) (p : BitVec 32) : KeepsOrder s (s.claimEcho p) := by
  unfold State.claimEcho
  refine .ite (fun _ => .refl s) fun _ => ?_
  split
  · next i _ =>
    exact .ite (fun _ => updClaim_order s i _) fun _ =>
      .ite (fun _ => (writeEntry_order s _ _ _ _).trans ((updClaim_order _ i _).trans (reportAdmission_order _ i _ _)))
        fun _ => claimRefused_order s i _
  · exact .refl s

theorem valveCloseTime_order (s : State) (i : LocalHead) : KeepsOrder s (s.valveCloseTime i) :=
  .ite (fun _ => (markJog_order s i).trans (closeValve_order _ i)) fun _ => .refl s

theorem claimRetry_order (s : State) (i : LocalHead) : KeepsOrder s (s.claimRetry i) := by
  unfold State.claimRetry
  split
  · exact .ite (fun _ => .ite (fun _ => (updClaim_order s i _).trans (formClaim_order _ i)) fun _ =>
      updClaim_order s i _) fun _ => .refl s
  all_goals exact .refl s

theorem holdExpiry_order (s : State) : KeepsOrder s s.holdExpiry := by
  have h : KeepsOrder s { s with sdu := { s.sdu with hold := none } } := fun h => { h with }
  exact .ite (fun _ => .ite (fun _ => h.trans (send_order _ rfl)) fun _ => h) fun _ => .refl s

theorem holdRenewal_order (s : State) : KeepsOrder s s.holdRenewal := by
  have h : KeepsOrder s { s with sdu := { s.sdu with renewal := none } } := fun h => { h with }
  exact .ite (fun _ => .ite (fun _ => h.trans (send_order _ rfl)) fun _ => h) fun _ => .refl s

theorem stloSample_order (s : State) : KeepsOrder s s.stloSample := by
  have hl : ∀ l, KeepsOrder s { s with sdu := { s.sdu with stlo := l } } := fun _ h => { h with }
  unfold State.stloSample
  split
  · exact .ite (fun _ => (hl _).trans ((latch_order _ _).trans (send_order _ rfl))) fun _ =>
      (hl _).trans (latch_order _ _)
  · exact hl _
  all_goals exact .refl s

theorem stloFilter_order (s : State) (l : StloLevel) (held : Nat) : KeepsOrder s (s.stloFilter l held) :=
  .of_only (stloFilter_only s l held) (by decide)

theorem silenceThreshold_order (s : State) : KeepsOrder s s.silenceThreshold :=
  .ite (fun _ => (KeepsOrder.of_only (setIsolated_only s true) (by decide)).trans (latch_order _ _)) fun _ => .refl s

/-! ## The drive link, verdicts and returns -/

theorem countCompletion_order (s : State) (i : LocalHead) (c : ReplyClass) : KeepsOrder s (s.countCompletion i c) := by
  cases c with
  | success => exact updHead_order s i _
  | failure => exact driveFailed_order s i
  | busy => exact .refl s

theorem applyCompletion_order (s : State) (i : LocalHead) (k : DriveKind) (c : ReplyClass) (torque angle : Nat) :
    KeepsOrder s (s.applyCompletion i k c torque angle) := by
  have h := markJog_order s i
  have hend : ∀ (f : Head → Head) (o : JarOutcome) (x y : Nat),
      KeepsOrder s (((s.markJog i).updHead i f).finish i o x y) := fun f o x y =>
    h.trans ((updHead_order _ i f).trans (finish_order _ i o x y))
  unfold State.applyCompletion
  dsimp only
  split
  · exact h.trans (updHead_order _ i _)
  · exact h.trans (flag_order _ i _)
  · exact hend _ _ _ _
  · exact hend _ _ _ _
  · exact h.trans (updSlot_order _ i _)
  · exact h
  · exact h
  · exact h
  · exact h
  · exact .refl s

theorem transactionComplete_order (s : State) (reply : BitVec 48) : KeepsOrder s (s.transactionComplete reply) := by
  unfold State.transactionComplete
  split
  · next t _ =>
    have h := (KeepsOrder.of_only (setCurrent_only s none) (by decide)).trans
      (countCompletion_order _ t.head (judgeReply t.request.kind reply))
    exact .ite (fun _ => .ite (fun _ => h.trans (applyCompletion_order _ _ _ _ _ _)) fun _ => h) fun _ => .refl s
  · exact .refl s

theorem matchVerdict_order (s : State) (i : LocalHead) (e : AwaitingEntry) (f : Finding) (depth : Nat) :
    KeepsOrder s (s.matchVerdict i e f depth) := by
  have hm : KeepsOrder s (s.matchEntry i e f) :=
    .of_only ((setAwaitingRun_only s _ _).comp ((updLearned_only _ i _).comp (updCounters_only _ i _)))
      (by simp [orderPieces])
  exact .ite (fun _ => .ite (fun _ => hm.trans ((updLearned_order _ i _).trans (benchHead_order _ i _))) fun _ =>
    hm.trans (updLearned_order _ i _)) fun _ => hm

theorem takeVerdict_order (s : State) (src : Address) (p : BitVec 56) : KeepsOrder s (s.takeVerdict src p) := by
  unfold State.takeVerdict
  refine .ite (fun _ => .refl s) fun _ => .ite (fun _ => .refl s) fun _ => ?_
  split
  · exact count_order s _
  · refine .ite (fun _ => count_order s _) fun _ => ?_
    split
    · exact matchVerdict_order s _ _ _ _
    · exact .refl s

theorem verdictExpiry_order (s : State) : KeepsOrder s s.verdictExpiry := by
  have hn : ∀ t : State, KeepsOrder t t.noVerdict := fun t =>
    .ite (fun _ => (KeepsOrder.of_only (setRun_only t 0) (by decide)).trans (latch_order _ _)) fun _ h => { h with }
  unfold State.verdictExpiry
  split
  · exact .refl s
  · next rest _ =>
    have ht : KeepsOrder s { s with vu := { s.vu with awaiting := rest } } := fun h => { h with }
    refine .ite (fun _ => ?_) fun _ => .refl s
    dsimp only
    split
    · exact ht.trans ((KeepsOrder.of_only (updCounters_only _ _ _) (by simp [orderPieces])).trans (hn _))
    · exact ht.trans (hn _)

theorem returnHead_order (s : State) (b : Bool) (i : LocalHead) : KeepsOrder s (s.returnHead b i) :=
  .ite (fun _ => send_order s rfl) fun _ =>
    (updHead_order s i _).trans ((updLearned_order _ i _).trans (send_order _ rfl))

theorem takeReturn_order (s : State) (src : Address) (p : BitVec 16) : KeepsOrder s (s.takeReturn src p) := by
  unfold State.takeReturn
  refine .ite (fun _ => .refl s) fun _ => .ite (fun _ => .eachOwned s fun i t => returnHead_order t _ i) fun _ => ?_
  split
  · exact returnHead_order s _ _
  · exact .refl s

/-! ## Modes, notices and counters -/

theorem takeLineMode_order (s : State) (src : Address) (p : BitVec 8) : KeepsOrder s (s.takeLineMode src p) := by
  have hm : ∀ m, KeepsOrder s (s.setMode m) := fun m => .of_only (setMode_only s m) (by decide)
  have hj : ∀ t : State, KeepsOrder t t.jogEnd := fun t => .eachOwned t fun i u =>
    .ite (fun _ => (updLearned_order u i _).trans (send_order _ rfl)) fun _ => .refl u
  unfold State.takeLineMode
  refine .ite (fun _ => .refl s) fun _ => ?_
  split
  · exact .refl s
  · exact .ite (fun _ => .refl s) fun _ => .ite (fun _ => (hm _).trans (send_order _ rfl)) fun _ =>
      .ite (fun _ => (hm _).trans (hj _)) fun _ => hm _

theorem takeLineClear_order (s : State) (src : Address) (p : BitVec 16) : KeepsOrder s (s.takeLineClear src p) := by
  have he : KeepsOrder s s.clearedOut :=
    (KeepsOrder.of_only (emptied_only s) (by decide)).trans (clearNotices_order _ _)
  refine .ite (fun _ => ?_) fun _ => .refl s
  rw [lineClear_eq]
  exact fun h => { he h with }

theorem takeRequest_order (s : State) (src : Address) (p : BitVec 16) : KeepsOrder s (s.takeRequest src p) := by
  unfold State.takeRequest
  refine .ite (fun _ => ?_) fun _ => .refl s
  split
  · exact send_order s rfl
  · exact .refl s

/-! ## Joining -/

theorem sendTimedJoin_order (s : State) : KeepsOrder s s.sendTimedJoin :=
  (send_order s rfl).trans (.of_only (setJoinTimer_only _ _) (by decide))

theorem tryJoin_order (s : State) : KeepsOrder s s.tryJoin := by
  have hj : KeepsOrder s s.joinedState := fun h => { h with }
  exact .ite (fun _ => hj.trans ((changeMask_order _ _).trans (send_order _ rfl))) fun _ => .refl s

theorem joinTimer_order (s : State) : KeepsOrder s s.joinTimer :=
  .ite (fun _ => sendTimedJoin_order s) fun _ => .refl s

theorem joinWindowPass_order (s : State) : KeepsOrder s s.joinWindowPass :=
  .ite (fun _ => (KeepsOrder.of_only (setWindow_only s _) (by decide)).trans (tryJoin_order _)) fun _ => .refl s

theorem takeJoin_order (s : State) (src : Address) (p : BitVec 24) : KeepsOrder s (s.takeJoin src p) := by
  have hl : ∀ (t : State) (b : Bool), KeepsOrder t (if b then t.latch .headMapConflict else t) :=
    fun t _ => .ite (fun _ => latch_order t _) fun _ => .refl t
  have hj : ∀ (t : State) (b : Bool), KeepsOrder t (if b then t.sendJoin else t) :=
    fun t _ => .ite (fun _ => send_order t rfl) fun _ => .refl t
  have he : ∀ r, KeepsOrder s (s.enterRoster src r p) := fun r => by
    have hr := KeepsOrder.of_only (setRoster_only s (writeRoster (s.heardEntry src r p) s.sc.roster)) (by decide)
    have hv := fun b c => hr.trans ((hl _ b).trans (hj _ c))
    exact .ite (fun _ => (hv _ _).trans (tryJoin_order _)) fun _ => hv _ _
  unfold State.takeJoin
  refine .ite (fun _ => .refl s) fun _ => ?_
  split
  · exact .ite (fun _ => he _) fun _ => .refl s
  · exact .refl s

theorem latchInvalid_order (s : State) (c : ConfigStatus) : KeepsOrder s (s.latchInvalid c) :=
  .ite (fun _ => latch_order s _) fun _ => .refl s

theorem takeSetup_order (s : State) (src : Address) (p : BitVec 64) : KeepsOrder s (s.takeSetup src p) := by
  unfold State.takeSetup
  refine .ite (fun _ => .refl s) fun _ => .ite (fun _ => latch_order s _) fun _ => ?_
  split
  · exact .refl s
  · exact (KeepsOrder.of_only (setSetupParts_only s _) (by decide)).trans ((latchInvalid_order _ _).trans
      (tryJoin_order _))

theorem takeProfile_order (s : State) (src : Address) (p : BitVec 64) : KeepsOrder s (s.takeProfile src p) := by
  unfold State.takeProfile
  refine .ite (fun _ => .refl s) fun _ => .ite (fun _ => latch_order s _) fun _ => .ite (fun _ => .refl s) fun _ => ?_
  dsimp only
  split
  · exact .refl s
  · exact (KeepsOrder.of_only (setProfiles_only s _) (by decide)).trans ((latchInvalid_order _ _).trans
      (tryJoin_order _))

/-! ## The bus -/

theorem moveClaim_order (s : State) (f : TxFrame) (next : ClaimState → ClaimState) :
    KeepsOrder s (s.moveClaim f next) :=
  .of_only (moveClaim_only s f next) (by decide)

/-- The frame taken leaves the queue with its age, which no frame left in the queue has (R160). -/
theorem contentionStart_order (s : State) : KeepsOrder s s.contentionStart := by
  unfold State.contentionStart
  split
  · next e rest _ _ hq =>
    refine KeepsOrder.trans (fun h => ?_) (moveClaim_order _ _ _)
    obtain ⟨hl, hu, -⟩ := h
    rw [hq] at hl hu
    have hages := hl.ages
    rw [List.map_cons, List.nodup_cons] at hages
    refine ⟨hl.sublist (List.sublist_cons_self e rest), fun x hx => hu x (List.mem_cons_of_mem e hx), ?_⟩
    rintro f ⟨⟩
    exact ⟨hu e List.mem_cons_self, fun x hx hxe => hages.1 (List.mem_map.2 ⟨x, hx, hxe⟩)⟩
  · exact .refl s

/-- A header that has won leaves its frame's age as it is (R165). -/
theorem contentionWon_order (s : State) : KeepsOrder s s.contentionWon := by
  unfold State.contentionWon
  split
  · next f hf =>
    refine .ite (fun _ => .refl s) fun _ => KeepsOrder.trans (fun h => ?_) (moveClaim_order _ _ _)
    refine { h with flight := ?_ }
    rintro g ⟨⟩
    exact h.flight f hf
  · exact .refl s

@[simp] theorem putBack_age (e : TxEntry) : e.putBack.age = e.age := by
  unfold TxEntry.putBack
  split <;> rfl

theorem putBack_isNotice (e : TxEntry) : e.putBack.frame.isNotice = e.frame.isNotice := by
  unfold TxEntry.putBack
  split
  · next h => exact h.symm
  · rfl

/-- A claim that goes on is no part of the bus interface. -/
theorem moveClaim_lbi (s : State) (f : TxFrame) (next : ClaimState → ClaimState) : (s.moveClaim f next).lbi = s.lbi :=
  (SameBus.of_only (moveClaim_only s f next) (by decide)).lbi

/-- The station with the frame in flight off the bus, before it is put back: its claim moved, and a waiting NOTICE
given up for one that is put back (R161, R165). -/
def State.released (s : State) (e : TxEntry) : State :=
  (({ s with lbi := { s.lbi with inFlight := none } } : State).moveClaim e.frame .putBack).dropWaitingNotice e

theorem returnFrame_eq (s : State) (e : TxEntry) : s.returnFrame e = (s.released e).enter e.putBack :=
  rfl

/-- The waiting frames beside a frame that is put back (R165). -/
def waitingBeside (e : TxEntry) (q : List TxEntry) : List TxEntry :=
  if e.frame.isNotice then q.filter fun x => !x.frame.isNotice else q

theorem waitingBeside_sublist (e : TxEntry) (q : List TxEntry) : List.Sublist (waitingBeside e q) q := by
  unfold waitingBeside
  split
  · exact List.filter_sublist
  · exact .refl _

theorem released_lbi (s : State) (e : TxEntry) :
    (s.released e).lbi = { s.lbi with inFlight := none, queue := waitingBeside e s.lbi.queue } := by
  unfold State.released State.dropWaitingNotice waitingBeside
  split
  · rw [moveClaim_lbi]
  · exact moveClaim_lbi _ _ _

/-- The frame in flight arrives in the queue with the age it left it with, no second NOTICE (R161, R165). -/
theorem released_mayArrive {s : State} (h : s.InOrder) {f : InFlight} (hf : s.lbi.inFlight = some f) :
    (s.released f.entry).MayArrive f.entry.putBack := by
  obtain ⟨hused, hfree⟩ := h.flight f hf
  refine ⟨?_, fun x hx => ?_, fun g hg => ?_, fun hn => noticeWaits_false.2 fun x hx => ?_⟩
  · rwa [released_lbi, putBack_age]
  · rw [released_lbi] at hx
    rw [putBack_age]
    exact hfree x ((waitingBeside_sublist _ _).subset hx)
  · rw [released_lbi] at hg
    cases hg
  · rw [putBack_isNotice] at hn
    rw [released_lbi, waitingBeside, if_pos hn] at hx
    simpa using (List.mem_filter.1 hx).2

theorem released_order (s : State) (e : TxEntry) : KeepsOrder s (s.released e) :=
  fun h => by
    have hq := waitingBeside_sublist e s.lbi.queue
    refine ⟨?_, ?_, ?_⟩
    · rw [released_lbi]
      exact h.queue.sublist hq
    · rw [released_lbi]
      exact fun x hx => h.used x (hq.subset hx)
    · rw [released_lbi]
      rintro f ⟨⟩

theorem returnFrame_order {s : State} {f : InFlight} (hf : s.lbi.inFlight = some f) :
    KeepsOrder s (s.returnFrame f.entry) :=
  fun h => enter_order (released_order s _ h) (released_mayArrive h hf)

theorem lostContention_order (s : State) (bit : Nat) (level : Bool) : KeepsOrder s (s.lostContention bit level) := by
  unfold State.lostContention
  split
  · next f hf => exact .ite (fun _ => returnFrame_order hf) fun _ => .refl s
  · exact .refl s

theorem badFrame_order (s : State) : KeepsOrder s s.badFrame :=
  (count_order s _).trans (latch_order _ _)

theorem transmitError_order (s : State) (bit : Nat) (level : Bool) : KeepsOrder s (s.transmitError bit level) := by
  unfold State.transmitError
  split
  · next f hf =>
    have hb : s.badFrame.lbi.inFlight = some f := ((badFrame_only s).keeps .inFlight (by decide)).trans hf
    exact .ite (fun _ => (badFrame_order s).trans ((returnFrame_order hb).trans
      (.of_only (setErrorCounted_only _ true) (by decide)))) fun _ => .refl s
  · exact .refl s

theorem frameEnd_order (s : State) : KeepsOrder s s.frameEnd :=
  .of_only (frameEnd_only s) (by decide)

theorem badReceived_order (s : State) (r : FrameRead) : KeepsOrder s (s.badReceived r) :=
  .ite (fun _ => .ite (fun _ => frameEnd_order s) fun _ => (frameEnd_order s).trans (badFrame_order _)) fun _ => .refl s

theorem heardOther_order (s : State) (src : Address) : KeepsOrder s (s.heardOther src) := by
  have hc : ∀ t : State, KeepsOrder t (t.checkAddress src) := fun t => .ite
    (fun _ => (KeepsOrder.of_only (setConflict_only t true) (by decide)).trans (latch_order _ _)) fun _ => .refl t
  exact (KeepsOrder.of_only (setSilence_only s _) (by decide)).trans
    ((KeepsOrder.of_only (endIsolation_only _) (by decide)).trans (hc _))

theorem completed_order (s : State) : KeepsOrder s s.completed :=
  (frameEnd_order s).trans (clearFlight_order _)

theorem receive_order (s : State) (src : Address) (owner : State → State) (ho : ∀ t, KeepsOrder t (owner t)) :
    KeepsOrder s (s.receive src owner) :=
  .ite (fun _ => (frameEnd_order s).trans ((heardOther_order _ src).trans (ho _))) fun _ => .refl s

theorem receiveOr_order (s : State) (src : Address) (k : FrameKind) (b : List Byte) (echo owner : State → State)
    (he : ∀ t, KeepsOrder t (echo t)) (ho : ∀ t, KeepsOrder t (owner t)) :
    KeepsOrder s (s.receiveOr src k b echo owner) :=
  .ite (fun _ => (completed_order s).trans (he _)) fun _ => receive_order s src owner ho

theorem joinEcho_order (s : State) : KeepsOrder s s.joinEcho :=
  .of_only (joinEcho_only s) (by decide)

theorem receiveJoinEcho_order (s : State) : KeepsOrder s s.receiveJoinEcho := by
  unfold State.receiveJoinEcho
  split
  · exact .ite (fun _ => (completed_order s).trans (joinEcho_order _)) fun _ => .refl s
  · exact .refl s

theorem busIdleSeen_order (s : State) : KeepsOrder s s.busIdleSeen := by
  have h : KeepsOrder s { s with lbi := { s.lbi with receive := .idle } } := fun h => { h with }
  exact .ite (fun _ => .ite (fun _ => h) fun _ => h.trans (sendTimedJoin_order _)) fun _ => .refl s

/-! ## Resets -/

/-- An empty queue with no frame in flight is in order. -/
theorem inOrder_of_empty {s : State} (hq : s.lbi.queue = []) (hf : s.lbi.inFlight = none) : s.InOrder where
  queue := hq ▸ QueueLaw.nil
  used := by simp [hq]
  flight := by simp [hf]

theorem resetEnd_order (s : State) (straps : Straps) : KeepsOrder s (s.resetEnd straps) :=
  .ite (fun _ => .refl s) fun _ => .ite (fun _ _ => inOrder_of_empty rfl rfl) fun _ _ => inOrder_of_empty rfl rfl

/-! ## Every step -/

theorem fire_order (e : TimedEvent) (s : State) : KeepsOrder s (e.fire s) := by
  cases e with
  | pitchTimeout => exact .ite (fun _ => (setTtu_order s _).trans (recheckClaims_order _)) fun _ => .refl s
  | coldStop => exact .of_only (coldStop_only s) (by decide)
  | valveClose i => exact valveCloseTime_order s i
  | claimRetry i => exact claimRetry_order s i
  | drawExpiry src g => exact .of_only (drawEntryExpiry_only s src g) (by decide)
  | holdExpiry => exact holdExpiry_order s
  | holdRenewal => exact holdRenewal_order s
  | stloSample => exact stloSample_order s
  | silence => exact silenceThreshold_order s
  | relistenEnd => exact .of_only (relistenEnd_only s) (by decide)
  | transactionEnd => exact transactionComplete_order s _
  | driveGrant => exact .of_only (driveGrant_only s) (by decide)
  | resultWait i => exact .of_only (resultWaitExpiry_only s i) (by simp [orderPieces])
  | verdictExpiry => exact verdictExpiry_order s
  | joinTimer => exact joinTimer_order s
  | joinWindow => exact joinWindowPass_order s

theorem ifJoined_order (s : State) (f : State → State) (hf : ∀ t, KeepsOrder t (f t)) : KeepsOrder s (s.ifJoined f) :=
  .ite (fun _ => hf s) fun _ => .refl s

theorem commandEffect_order (c : Instr) (s : State) : KeepsOrder s (commandEffect c s) := by
  cases c with
  | forwardCount dt jp cp => exact ifJoined_order s (fun t => t.forwardCount jp cp) (forwardCount_order · jp cp)
  | reverseCount dt => exact ifJoined_order s _ reverseCount_order
  | illegalQuadratureStep dt => exact ifJoined_order s _ illegalStep_order
  | zeroMark dt jp cp => exact ifJoined_order s (fun t => t.zeroMark jp cp) (zeroMark_order · jp cp)
  | pitchTimeout dt => exact fire_order .pitchTimeout s
  | coldStop dt => exact fire_order .coldStop s
  | valveCloseTime dt i => exact fire_order (.valveClose i) s
  | jarRecord dt src p => exact receive_order s src (fun t => t.takeRecord src p) (takeRecord_order · src p)
  | drawClaim dt src p =>
    exact receiveOr_order s src _ _ (fun t => t.claimEcho p) (fun t => t.peerClaim src p) (claimEcho_order · p)
      fun t => .of_only (peerClaim_only t src p) (by decide)
  | drawEnd dt src p =>
    exact receiveOr_order s src _ _ (fun t => t.drawEndEcho p.toNat) (fun t => t.peerDrawEnd src p.toNat)
      (fun t => .of_only (drawEndEcho_only t _) (by decide)) fun t => .of_only (peerDrawEnd_only t src _) (by decide)
  | steamHold dt src p =>
    exact receiveOr_order s src _ _ (fun t => t.takeHold .own p.toNat) (fun t => t.takeHold .peer p.toNat)
      (fun t => .of_only (takeHold_only t _ _) (by decide)) fun t => .of_only (takeHold_only t _ _) (by decide)
  | claimRetry dt i => exact fire_order (.claimRetry i) s
  | drawEntryExpiry dt src head => exact fire_order (.drawExpiry src head) s
  | holdExpiry dt => exact fire_order .holdExpiry s
  | holdRenewal dt => exact fire_order .holdRenewal s
  | stloFall r => exact (stloFilter_order s _ _).trans (stloSample_order _)
  | stloRise r => exact (stloFilter_order s _ _).trans (stloSample_order _)
  | silenceThreshold dt => exact fire_order .silence s
  | relistenEnd dt => exact fire_order .relistenEnd s
  | driveGrant dt => exact fire_order .driveGrant s
  | driveTransactionComplete dt reply => exact transactionComplete_order s reply
  | resultWaitExpiry dt i => exact fire_order (.resultWait i) s
  | verdict dt src p => exact receive_order s src (fun t => t.takeVerdict src p) (takeVerdict_order · src p)
  | verdictExpiry dt => exact fire_order .verdictExpiry s
  | headReturn dt src p => exact receive_order s src (fun t => t.takeReturn src p) (takeReturn_order · src p)
  | lineMode dt src p => exact receive_order s src (fun t => t.takeLineMode src p) (takeLineMode_order · src p)
  | lineClear dt src p => exact receive_order s src (fun t => t.takeLineClear src p) (takeLineClear_order · src p)
  | join dt src p =>
    exact receiveOr_order s src _ _ _ (fun t => t.takeJoin src p) joinEcho_order (takeJoin_order · src p)
  | joinTimer dt => exact fire_order .joinTimer s
  | joinWindowPass dt => exact fire_order .joinWindow s
  | setup dt src p => exact receive_order s src (fun t => t.takeSetup src p) (takeSetup_order · src p)
  | profile dt src p => exact receive_order s src (fun t => t.takeProfile src p) (takeProfile_order · src p)
  | noticeClear dt src p =>
    exact receive_order s src (fun t => t.takeNoticeClear src p) fun t =>
      .ite (fun _ => clearNotices_order t _) fun _ => .refl t
  | noticeMaskSet dt src p =>
    exact receive_order s src (fun t => t.takeMaskSet src p) fun t =>
      .ite (fun _ => changeMask_order t _) fun _ => .refl t
  | noticeMaskClear dt src p =>
    exact receive_order s src (fun t => t.takeMaskClear src p) fun t =>
      .ite (fun _ => changeMask_order t _) fun _ => .refl t
  | counterRequest dt src p => exact receive_order s src (fun t => t.takeRequest src p) (takeRequest_order · src p)
  | frameContentionStart dt => exact contentionStart_order s
  | lostContention r => exact lostContention_order s r.bit r.level
  | transmitError r => exact transmitError_order s r.bit r.level
  | badFrameReceived dt r => exact badReceived_order s r
  | unownedFrame dt src kind payload =>
    exact .ite (fun _ => completed_order s) fun _ => receive_order s src id .refl
  | busIdleSeen dt => exact busIdleSeen_order s
  | supplyLow dt => exact fun h => { clearFlight_order s h with }
  | resetPin dt => exact fun _ => inOrder_of_empty rfl rfl
  | resetEnd dt addr hcPins fh => exact resetEnd_order s _
  | startBit dt => exact .of_only (startBit_only s) (by decide)
  | contentionWon dt => exact contentionWon_order s
  | joinEcho dt => exact receiveJoinEcho_order s

/-- The law is kept by every step. -/
theorem keptByStep_inOrder : KeptByStep State.InOrder :=
  keptByStep_of_effects (fun _ _ h => { h with }) (fun _ _ _ h => { h with }) (fun e s => fire_order e s)
    fun c s _ => commandEffect_order c s

/-- Settles O55: the law is what the statement asks of the queue, and the clock, every timed row and every command's
effect keep it. -/
theorem transmitQueueStaysInOrder : Obligations.TransmitQueueStaysInOrder :=
  fun s t hs ht => inOrder_iff.1 (keptByStep_inOrder s t (inOrder_iff.2 hs) ht)

end Sys2Proof.Machine
end

section
/-!
The arrival of a frame (O51): the queue with room, the full queue, and what the loss of a frame brings.
-/
namespace Sys2Proof.Machine

/-! ## A full queue -/

/-- Whether a frame goes ahead of another, in one condition (R162). -/
theorem ahead_eq_decide (x e : TxEntry) :
    x.ahead e = decide (x.frame.cls < e.frame.cls ∨ x.frame.cls = e.frame.cls ∧ x.age < e.age) := by
  rw [Bool.eq_iff_iff, ahead_iff, decide_eq_true_iff]

/-- In a queue in order the last frame is of the worst class (R162). -/
theorem cls_le_of_getLast? {q : List TxEntry} (hq : q.Pairwise fun a b => a.ahead b = true) {w : TxEntry}
    (hw : q.getLast? = some w) : ∀ x ∈ q, x.frame.cls ≤ w.frame.cls := by
  obtain ⟨r, rfl⟩ := List.getLast?_eq_some_iff.1 hw
  intro x hx
  rcases List.mem_append.1 hx with hx | hx
  · have := (ahead_iff x w).1 ((List.pairwise_append.1 hq).2.2 x hx w (List.mem_singleton_self w))
    omega
  · rw [List.mem_singleton.1 hx]

/-- The arriving frame is dropped where no frame of a worse class waits (R163). -/
theorem placeTx_dropped {e : TxEntry} {q : List TxEntry} (hfull : 16 ≤ q.length)
    (h : ∀ x ∈ q, x.frame.cls ≤ e.frame.cls) : placeTx e q = (q, some e.frame) := by
  unfold placeTx
  rw [if_neg (Nat.not_lt.2 hfull)]
  split
  · next w hw => exact if_neg (Nat.not_lt.2 (h w (List.mem_of_getLast? hw)))
  · rfl

/-- Otherwise the youngest frame of the worst class gives way (R163). -/
theorem placeTx_displaces {e : TxEntry} {q : List TxEntry} (hq : q.Pairwise fun a b => a.ahead b = true)
    (he : ∀ x ∈ q, x.age ≠ e.age) (hfull : 16 ≤ q.length) (h : ¬ ∀ x ∈ q, x.frame.cls ≤ e.frame.cls) :
    ∃ f : TxFrame, e.frame.cls < f.cls
      ∧ placeTx e q = (q.filter (fun x => x.ahead e) ++ e :: (q.filter fun x => !x.ahead e).dropLast, some f) := by
  obtain ⟨w, hw⟩ : ∃ w, q.getLast? = some w := by
    cases hl : q.getLast? with
    | some w => exact ⟨w, rfl⟩
    | none => simp [List.getLast?_eq_none_iff.1 hl] at hfull
  have hworse : e.frame.cls < w.frame.cls := by
    by_contra hn
    exact h fun x hx => (cls_le_of_getLast? hq hw x hx).trans (Nat.not_lt.1 hn)
  obtain ⟨r, rfl⟩ := List.getLast?_eq_some_iff.1 hw
  have hstays : w.ahead e = false := by
    rw [← Bool.not_eq_true, ahead_iff]
    omega
  have hplace : placeTx e (r ++ [w]) = (insertTx e r, some w.frame) := by
    unfold placeTx
    rw [if_neg (Nat.not_lt.2 hfull), hw]
    simp only [if_pos hworse, List.dropLast_concat]
  refine ⟨w.frame, hworse, ?_⟩
  rw [hplace, insertTx_eq_filter (hq.sublist (List.sublist_append_left r [w])) fun x hx =>
    he x (List.mem_append_left _ hx)]
  simp [List.filter_append, hstays]

/-- A full queue with a frame that has arrived, whichever frame was lost (R163). -/
def placeFull (e : TxEntry) (q : List TxEntry) : List TxEntry :=
  if ∀ x ∈ q, x.frame.cls ≤ e.frame.cls then q
  else q.filter (fun x => x.ahead e) ++ e :: (q.filter fun x => !x.ahead e).dropLast

theorem placeTx_full {e : TxEntry} {q : List TxEntry} (hq : q.Pairwise fun a b => a.ahead b = true)
    (he : ∀ x ∈ q, x.age ≠ e.age) (hfull : 16 ≤ q.length) : (placeTx e q).1 = placeFull e q := by
  unfold placeFull
  split
  · next h => rw [placeTx_dropped hfull h]
  · next h =>
    obtain ⟨f, -, hf⟩ := placeTx_displaces hq he hfull h
    rw [hf]

/-- A frame that arrives at a full queue costs a frame, and the queue stays full (R163). -/
theorem placeTx_full_loses (e : TxEntry) {q : List TxEntry} (hfull : 16 ≤ q.length) :
    ∃ f, (placeTx e q).2 = some f ∧ (placeTx e q).1.length = q.length := by
  unfold placeTx
  rw [if_neg (Nat.not_lt.2 hfull)]
  split
  · next w hw =>
    split
    · refine ⟨w.frame, rfl, ?_⟩
      rw [insertTx_length, List.length_dropLast]
      omega
    · exact ⟨e.frame, rfl, rfl⟩
  · exact ⟨e.frame, rfl, rfl⟩

theorem placeTx_pairwise {e : TxEntry} {q : List TxEntry} (hq : q.Pairwise fun a b => a.ahead b = true)
    (he : ∀ x ∈ q, x.age ≠ e.age) : (placeTx e q).1.Pairwise fun a b => a.ahead b = true := by
  rcases placeTx_places e q with h | ⟨r, hr, h⟩
  · rw [h]
    exact hq
  · rw [h]
    exact insertTx_pairwise (hq.sublist hr) fun x hx => he x (hr.subset hx)

/-! ## The arrival -/

section
variable {s : State} {e : TxEntry}

theorem lostAt_room (h : s.lbi.queue.length < 16) : s.lostAt e = none :=
  congrArg Prod.snd (placeTx_room e h)

theorem enter_room (h : s.lbi.queue.length < 16) :
    s.enter e = { s with lbi := { s.lbi with queue := insertTx e s.lbi.queue } } := by
  unfold State.enter State.arrive
  rw [lostAt_room h, placeTx_room e h]
  rfl

/-- A loss is counted as a TX drop (R163). -/
theorem arrive_full (hq : s.lbi.queue.Pairwise fun a b => a.ahead b = true) (he : ∀ x ∈ s.lbi.queue, x.age ≠ e.age)
    (hfull : 16 ≤ s.lbi.queue.length) : s.arrive e = { s with
      lbi := { s.lbi with queue := placeFull e s.lbi.queue },
      counters := { s.counters with txDrops := bump s.counters.txDrops } } := by
  obtain ⟨f, hf, -⟩ := placeTx_full_loses e hfull
  unfold State.arrive State.lostAt
  rw [hf, placeTx_full hq he hfull]
  rfl

/-- A full queue once TX_DROP's own NOTICE has arrived: it is younger than every frame of its class (R163, log 21). -/
theorem placeFull_notice {q : List TxEntry} {age : Nat} (hage : ∀ x ∈ q, x.age < age) :
    placeFull { frame := .notice none, age := age } q =
      if ∀ x ∈ q, x.frame.cls ≤ 6 then q
      else q.filter (fun x => decide (x.frame.cls ≤ 6)) ++ { frame := .notice none, age := age }
        :: (q.filter fun x => decide (6 < x.frame.cls)).dropLast := by
  have hgo : ∀ x ∈ q, x.ahead { frame := .notice none, age := age } = decide (x.frame.cls ≤ 6) := by
    intro x hx
    have := hage x hx
    rw [Bool.eq_iff_iff, ahead_iff, decide_eq_true_iff]
    show x.frame.cls < 6 ∨ x.frame.cls = 6 ∧ x.age < age ↔ _
    omega
  have hstay : ∀ x ∈ q, (!x.ahead { frame := .notice none, age := age }) = decide (6 < x.frame.cls) := by
    intro x hx
    rw [hgo x hx, ← decide_not]
    exact decide_eq_decide.2 Nat.not_le
  unfold placeFull
  rw [List.filter_congr hgo, List.filter_congr hstay]
  rfl

/-- What latching TX_DROP does at a full queue (R163, R179, log 21). -/
theorem latchTxDrop_full (hq : s.lbi.queue.Pairwise fun a b => a.ahead b = true)
    (hage : ∀ x ∈ s.lbi.queue, x.age < s.lbi.nextAge) (hfull : 16 ≤ s.lbi.queue.length) :
    s.latchTxDrop =
      if hasNotice s.sc.latched .txDrop = true then s
      else if hasNotice s.sc.mask .txDrop = true ∨ s.noticeWaits = true then s.setLatched .txDrop
      else { s.setLatched .txDrop with
        lbi := { s.lbi with
          nextAge := s.lbi.nextAge + 1,
          queue := placeFull { frame := .notice none, age := s.lbi.nextAge } s.lbi.queue },
        counters := { s.counters with txDrops := bump s.counters.txDrops } } := by
  have ha : (s.setLatched .txDrop).nextAge.arrive { frame := .notice none, age := s.lbi.nextAge } = _ :=
    arrive_full hq (fun x hx => (hage x hx).ne) hfull
  unfold State.latchTxDrop
  simp only [Bool.or_eq_true]
  exact if_congr Iff.rfl rfl (if_congr Iff.rfl rfl ha)

/-! ## The loss -/

/-- A frame of a class other than 0 that is lost brings nothing more (R74, R163). -/
theorem takeLoss_worse {f : TxFrame} (h : 0 < f.cls) : s.takeLoss f = s := by
  cases f with
  | steamHold _ | drawClaim _ _ _ | drawEnd _ => exact absurd h (Nat.lt_irrefl 0)
  | _ => rfl

theorem enter_lost {f : TxFrame} (h : s.lostAt e = some f) : s.enter e = (s.arrive e).latchTxDrop.takeLoss f := by
  unfold State.enter
  rw [h]

theorem enter_dropped (hfull : 16 ≤ s.lbi.queue.length) (h : ∀ x ∈ s.lbi.queue, x.frame.cls ≤ e.frame.cls) :
    s.enter e = (s.arrive e).latchTxDrop.takeLoss e.frame :=
  enter_lost (congrArg Prod.snd (placeTx_dropped hfull h))

/-- A better frame, or one not of class 0, costs no frame that the SDU takes the loss of (R74). -/
theorem enter_unheeded (hq : s.lbi.queue.Pairwise fun a b => a.ahead b = true)
    (he : ∀ x ∈ s.lbi.queue, x.age ≠ e.age) (hfull : 16 ≤ s.lbi.queue.length)
    (h : ¬ ((∀ x ∈ s.lbi.queue, x.frame.cls ≤ e.frame.cls) ∧ e.frame.cls = 0)) :
    s.enter e = (s.arrive e).latchTxDrop := by
  by_cases hd : ∀ x ∈ s.lbi.queue, x.frame.cls ≤ e.frame.cls
  · rw [enter_dropped hfull hd]
    exact takeLoss_worse (Nat.pos_of_ne_zero fun h0 => h ⟨hd, h0⟩)
  · obtain ⟨f, hworse, hf⟩ := placeTx_displaces hq he hfull hd
    rw [enter_lost (congrArg Prod.snd hf)]
    exact takeLoss_worse (Nat.zero_lt_of_lt hworse)

/-- A claim refused by the head's standing and the clock of an earlier state (R71, R74). -/
theorem claimRefused_eq {t : State} {i : LocalHead} (hm : t.mayClaim i = s.mayClaim i) (hn : t.now = s.now) :
    t.claimRefused i = t.updClaim i fun c =>
      if (s.head i).phase = .claiming ∧ (s.head i).bench = none ∧ (s.head i).claimsEnded = false then
        { c with state := .retry (s.now + 5000) }
      else .clear := by
  unfold State.claimRefused
  simp only [hm, hn, mayClaim_iff]
  split <;> rfl

/-- A loss latches TX_DROP (R163). -/
theorem enter_full_has (hfull : 16 ≤ s.lbi.queue.length) : hasNotice (s.enter e).sc.latched .txDrop = true := by
  obtain ⟨f, hf, -⟩ := placeTx_full_loses e hfull
  rw [enter_lost hf, takeLoss_latched]
  exact latchTxDrop_has _

end

/-- Settles O51: the place of the arriving frame, the full queue and TX_DROP as the lemmas above say, and the SDU's
part by the frame that is lost. -/
theorem handedInFrameTakesItsPlace : Obligations.HandedInFrameTakesItsPlace := by
  unfold Obligations.HandedInFrameTakesItsPlace
  refine ⟨fun _ _ => rfl, ?_⟩
  intro s e hin hlen hages hused k goesFirst before after dropped placed latched notice asked v u
  have hq := hin.1
  have hgo : goesFirst = fun x => x.ahead e := funext fun x => (ahead_eq_decide x e).symm
  have hfirst : before = s.lbi.queue.filter fun x => x.ahead e := by simp only [before, hgo]
  have hrest : after = s.lbi.queue.filter fun x => !x.ahead e := by simp only [after, hgo]
  have hv (hfull : s.lbi.queue.length = 16) : (s.arrive e).latchTxDrop = v := by
    have hplaced : s.arrive e = placed := by
      rw [arrive_full hq hages hfull.ge, placeFull, ← hfirst, ← hrest]
      rfl
    have hlen : placed.lbi.queue.length = 16 := by
      rw [← hplaced]
      obtain ⟨-, -, h⟩ := placeTx_full_loses e hfull.ge
      exact h.trans hfull
    have hq' : placed.lbi.queue.Pairwise fun a b => a.ahead b = true := by
      rw [← hplaced]
      exact placeTx_pairwise hq hages
    have hage : ∀ x ∈ placed.lbi.queue, x.age < placed.lbi.nextAge := by
      rw [← hplaced]
      intro x hx
      rcases mem_placeTx hx with rfl | hx
      · exact hused
      · exact hin.2.2.2.1 x hx
    rw [hplaced, latchTxDrop_full hq' hage hlen.ge, placeFull_notice hage]
    rfl
  refine ⟨fun h => ?room, fun h => enter_full_has h.ge, fun h hn => (enter_unheeded hq hages h.ge hn).trans (hv h),
    fun h hd => ?lost⟩
  case room =>
    rw [hfirst, hrest, ← insertTx_eq_filter hq hages]
    exact enter_room h
  case lost =>
    have hu : u = v.takeLoss e.frame := by
      rw [← hv h]
      exact enter_dropped h.ge hd
    have honly : ChangesOnly ([.queue, .txDrops] ++ reporting) s v := by
      rw [← hv h]
      exact (arrive_only s e).comp (latchTxDrop_only _)
    have hr : Piece.resetting.same s v := honly.keeps .resetting (by decide)
    have hnow : v.now = s.now := honly.keeps .now (by decide)
    refine ⟨fun q hf => ?hold, fun g hf => ?drawEnd, fun i f d ho hf => ?claim, fun g f d hg hf => ?foreign⟩
    case hold =>
      rw [hu, hf, ← hnow]
      rfl
    case drawEnd =>
      rw [hu, hf]
      rfl
    case claim =>
      have hmay := mayClaim_of_head (i := i) (honly.keeps (.head i) (by simp [reporting]))
      have hl : v.localOf (s.fh + i.val) = some i := (localOf_of_same hr _).trans (localOf_globalHead ho)
      rw [hu, hf]
      simp only [State.takeLoss, hl]
      exact claimRefused_eq hmay hnow
    case foreign =>
      have hl : v.localOf g = none := by
        rw [localOf_of_same hr, ← Option.isNone_iff_eq_none, localOf_isNone_iff]
        exact hg
      rw [hu, hf]
      simp only [State.takeLoss, hl]

end Sys2Proof.Machine
end

section
/-!
The frame in flight: contention (O47) and the read-back that puts a frame back (O48).
-/
namespace Sys2Proof.Machine

/-! ## Commands at their moment -/

/-- A command that is no reset command, on a part that is not in reset when it acts. -/
theorem exec_live {c : Instr} {s t : State} (hc : actsInReset c = false) (ht : s.elapse (elapsedBefore c) = t)
    (hl : t.sc.inReset = false) : exec c s = .next (commandEffect c t) := by
  subst ht
  rw [exec_eq_whenLive hc, whenLive_live hl]

/-! ## The claim of a frame -/

theorem localOf_eq_some {s : State} {g : Nat} {i : LocalHead} :
    s.localOf g = some i ↔ s.owns i = true ∧ g = s.fh + i.val := by
  constructor
  · intro h
    have hc : s.hc ≤ 4 := Nat.succ_le_of_lt s.sc.straps.hcPins.isLt
    unfold State.localOf at h
    split at h
    · next hg =>
      cases h
      have hmod : (g - s.fh) % 4 = g - s.fh := Nat.mod_eq_of_lt (by omega)
      simp only [State.owns, Fin.ofNat_eq_cast, Fin.val_natCast, hmod, decide_eq_true_eq]
      omega
    · cases h
  · rintro ⟨ho, rfl⟩
    exact localOf_globalHead ho

/-- Where the claim of a frame goes on, it is the claim of the owned head the frame names (R70). -/
theorem moveClaim_claim (s : State) (e : TxEntry) (next : ClaimState → ClaimState) (i : LocalHead) :
    (s.moveClaim e.frame next).claim i =
      if s.owns i = true ∧ e.isClaimOf (s.fh + i.val) = true then
        { s.claim i with state := next (s.claim i).state }
      else s.claim i := by
  obtain ⟨f, age⟩ := e
  cases f with
  | drawClaim g u d =>
    have hi : s.owns i = true ∧ TxEntry.isClaimOf (s.fh + i.val) ⟨.drawClaim g u d, age⟩ = true ↔
        s.localOf g = some i := by
      rw [localOf_eq_some]
      simp [TxEntry.isClaimOf]
    simp only [hi, State.moveClaim]
    cases s.localOf g with
    | none => simp
    | some j =>
      by_cases hj : i = j
      · subst hj
        simpa using State.claim_updClaim_same s i _
      · simpa [Ne.symm hj] using State.claim_updClaim_other s hj _
  | _ => simp [State.moveClaim, TxEntry.isClaimOf]

/-- A claim that goes on only from some states is as it was in the others. -/
theorem Claim.moved_eq {c : Claim} {next : ClaimState → ClaimState} {x : ClaimState} {o m p : Prop} [Decidable o]
    [Decidable m] [Decidable p] (hp : p → next c.state = x) (hn : ¬ p → next c.state = c.state) :
    (if o ∧ m then { c with state := next c.state } else c) = if o ∧ m ∧ p then { c with state := x } else c := by
  by_cases h : o ∧ m
  · by_cases hq : p
    · rw [if_pos h, if_pos ⟨h.1, h.2, hq⟩, hp hq]
    · rw [if_pos h, if_neg fun hh => hq hh.2.2, hn hq]
  · rw [if_neg h, if_neg fun hh => h ⟨hh.1, hh.2.1⟩]

/-! ## Contention -/

section
variable {s : State}

theorem contentionStart_takes {e : TxEntry} (he : e ∈ s.lbi.queue.head?) (hr : s.lbi.receive = .idle)
    (hf : s.lbi.inFlight = none) :
    s.contentionStart = ({ s with lbi := { s.lbi with
      queue := s.lbi.queue.tail, inFlight := some { entry := e, won := false }, receive := .receiving } } :
      State).moveClaim e.frame .taken := by
  obtain ⟨rest, hq⟩ := List.head?_eq_some_iff.1 he
  unfold State.contentionStart
  rw [hr, hf, hq]
  rfl

theorem contentionStart_none (h : s.lbi.queue = [] ∨ s.lbi.receive ≠ .idle ∨ s.lbi.inFlight ≠ none) :
    s.contentionStart = s := by
  unfold State.contentionStart
  split
  · next hr hf hq => simp [hr, hf, hq] at h
  · rfl

theorem startBit_eq : s.startBit = { s with lbi := { s.lbi with
    receive := if s.lbi.receive = .idle then .receiving else s.lbi.receive } } := by
  unfold State.startBit
  split <;> rfl

/-- A won header fixes the content of a NOTICE and of no other frame (R165). -/
theorem wonFrame_eq (f : TxFrame) : s.wonFrame f =
    if f.isNotice then .notice (some { latched := s.sc.latched, mask := s.sc.mask }) else f := by
  cases f <;> rfl

theorem contentionWon_wins {f : InFlight} (hf : s.lbi.inFlight = some f) (hw : f.won = false) :
    s.contentionWon = ({ s with lbi := { s.lbi with
      inFlight := some { entry := { f.entry with frame := s.wonFrame f.entry.frame }, won := true } } } :
      State).moveClaim f.entry.frame .won := by
  unfold State.contentionWon
  rw [hf]
  simp [hw]

theorem contentionWon_none (h : ∀ f ∈ s.lbi.inFlight, f.won = true) : s.contentionWon = s := by
  unfold State.contentionWon
  split
  · next f hf => exact if_pos (h f hf)
  · rfl

end

theorem taken_queued {c : ClaimState} (h : c = .queued) : c.taken = .onBus false := by
  rw [h]
  rfl

theorem taken_other {c : ClaimState} (h : c ≠ .queued) : c.taken = c := by
  cases c with
  | queued => exact absurd rfl h
  | _ => rfl

theorem won_onLine {c : ClaimState} (h : c = .queued ∨ ∃ w, c = .onBus w) : c.won = .onBus true := by
  rcases h with rfl | ⟨w, rfl⟩ <;> rfl

theorem won_other {c : ClaimState} (h : ¬ (c = .queued ∨ ∃ w, c = .onBus w)) : c.won = c := by
  cases c with
  | queued | onBus _ => simp at h
  | _ => rfl

theorem putBack_onBus {c : ClaimState} (h : ∃ b, c = .onBus b) : c.putBack = .queued := by
  obtain ⟨b, rfl⟩ := h
  rfl

theorem putBack_other {c : ClaimState} (h : ¬ ∃ b, c = .onBus b) : c.putBack = c := by
  cases c with
  | onBus b => exact absurd ⟨b, rfl⟩ h
  | _ => rfl

/-- Settles O47: each command of contention as its equation says, and the claim of its frame by `moveClaim_claim`. -/
theorem contentionTakesTheHeadFrame : Obligations.ContentionTakesTheHeadFrame := by
  unfold Obligations.ContentionTakesTheHeadFrame
  intro s t dt ht hl
  have hstart : exec (.frameContentionStart dt) s = .next t.contentionStart := exec_live rfl ht hl
  have hwon : exec (.contentionWon dt) s = .next t.contentionWon := exec_live rfl ht hl
  refine ⟨fun e he hr hf => ?taken, fun h => ?notTaken, ?startBit, fun f hf hw => ?won, fun h => ?alreadyWon⟩
  case taken =>
    refine ⟨_, hstart, ?_, fun i => ?_, contentionStart_only t⟩
    · rw [contentionStart_takes he hr hf, moveClaim_lbi]
    · rw [contentionStart_takes he hr hf, moveClaim_claim]
      exact Claim.moved_eq taken_queued taken_other
  case notTaken =>
    rw [hstart, contentionStart_none h]
  case startBit =>
    rw [← startBit_eq]
    exact exec_live rfl ht hl
  case won =>
    refine ⟨_, hwon, ?_, fun i => ?_, contentionWon_only t⟩
    · rw [contentionWon_wins hf hw, moveClaim_lbi, wonFrame_eq]
    · rw [contentionWon_wins hf hw, moveClaim_claim]
      exact Claim.moved_eq won_onLine won_other
  case alreadyWon =>
    rw [hwon, contentionWon_none h]

/-! ## The read-back -/

section
variable {s : State} {f : InFlight} {bit : Nat} {level : Bool}

/-- A bit is compared in the header before the header has won, and after it later (R160, R165; log 28). -/
theorem compareBit_eq_iff {r : ReadBack} (hr : r ≠ .agrees) : s.compareBit f bit level = r ↔
    ∃ sent, (s.sentBits f)[bit]? = some sent ∧ decide (bit < 14) ≠ f.won ∧ readBack (!f.won) sent level = r := by
  unfold State.compareBit
  cases h : (s.sentBits f)[bit]? with
  | none => simp [hr.symm]
  | some sent =>
    by_cases hw : decide (bit < 14) = f.won
    · simp [hw, hr.symm]
    · simp [hw]

theorem compareBit_lost : s.compareBit f bit level = .lostContention ↔
    f.won = false ∧ bit < 14 ∧ (s.sentBits f)[bit]? = some true ∧ level = false := by
  rw [compareBit_eq_iff (by decide)]
  simp only [readBack_lost]
  cases f.won with
  | true => simp
  | false =>
    simp
    tauto

theorem compareBit_error : s.compareBit f bit level = .transmitError ↔
    (s.sentBits f)[bit]? = some (!level) ∧ (f.won = false ∧ bit < 14 ∧ level = true ∨ f.won = true ∧ 14 ≤ bit) := by
  rw [compareBit_eq_iff (by decide)]
  simp only [readBack_error]
  cases f.won <;> cases level <;> simp

theorem released_claim (s : State) (e : TxEntry) (i : LocalHead) : (s.released e).claim i =
    if s.owns i = true ∧ e.isClaimOf (s.fh + i.val) = true ∧ ∃ b, (s.claim i).state = .onBus b then
      { s.claim i with state := .queued }
    else s.claim i := by
  have hd := (dropWaitingNotice_only (({ s with lbi := { s.lbi with inFlight := none } } : State).moveClaim e.frame
    .putBack) e).keeps (.claim i) (by simp)
  refine Eq.trans hd ((moveClaim_claim _ e .putBack i).trans ?_)
  exact Claim.moved_eq putBack_onBus putBack_other

theorem released_only (s : State) (e : TxEntry) :
    ChangesOnly ([.inFlight, .queue] ++ ofHeads .claim) s (s.released e) :=
  ((setInFlight_only s none).comp ((moveClaim_only _ _ _).comp (dropWaitingNotice_only _ e))).widen (by decide)

/-- A frame put back into a queue with room takes its place and costs nothing (R161). -/
theorem returnFrame_room {e : TxEntry} (h : (waitingBeside e s.lbi.queue).length < 16) :
    (s.returnFrame e).lbi =
        { s.lbi with inFlight := none, queue := insertTx e.putBack (waitingBeside e s.lbi.queue) }
      ∧ ChangesOnly ([.inFlight, .queue] ++ ofHeads .claim) s (s.returnFrame e) := by
  have hl := released_lbi s e
  have hroom : (s.released e).lbi.queue.length < 16 := by rwa [hl]
  rw [returnFrame_eq, enter_room hroom]
  exact ⟨by rw [hl], (released_only s e).trans ((setQueue_only _ _).mono (by simp))⟩

theorem lostContention_lost (hf : s.lbi.inFlight = some f)
    (h : f.won = false ∧ bit < 14 ∧ (s.sentBits f)[bit]? = some true ∧ level = false) :
    s.lostContention bit level = s.returnFrame f.entry := by
  unfold State.lostContention
  rw [hf]
  exact if_pos (compareBit_lost.2 h)

theorem lostContention_other (hf : s.lbi.inFlight = some f)
    (h : ¬ (f.won = false ∧ bit < 14 ∧ (s.sentBits f)[bit]? = some true ∧ level = false)) :
    s.lostContention bit level = s := by
  unfold State.lostContention
  rw [hf]
  exact if_neg (mt compareBit_lost.1 h)

theorem transmitError_stops (hf : s.lbi.inFlight = some f) (h : (s.sentBits f)[bit]? = some (!level)
      ∧ (f.won = false ∧ bit < 14 ∧ level = true ∨ f.won = true ∧ 14 ≤ bit)) :
    s.transmitError bit level = s.errorStop f := by
  unfold State.transmitError
  rw [hf]
  exact if_pos (compareBit_error.2 h)

theorem transmitError_other (hf : s.lbi.inFlight = some f) (h : ¬ ((s.sentBits f)[bit]? = some (!level)
      ∧ (f.won = false ∧ bit < 14 ∧ level = true ∨ f.won = true ∧ 14 ≤ bit))) :
    s.transmitError bit level = s := by
  unfold State.transmitError
  rw [hf]
  exact if_neg (mt compareBit_error.1 h)

/-- Once a frame is put back none is in flight (R161). -/
theorem returnFrame_inFlight (s : State) (e : TxEntry) : (s.returnFrame e).lbi.inFlight = none := by
  have he := (enter_only (s.released e) e.putBack).mono
    (List.append_subset.2 ⟨List.subset_append_left reporting _,
      List.subset_append_of_subset_right reporting (lossPieces_sub _ _)⟩)
  have hf := he.keeps .inFlight (by decide)
  simp only [Piece.same] at hf
  rw [returnFrame_eq, hf, released_lbi]

theorem returnFrame_keepsNotices (s : State) (e : TxEntry) : KeepsNotices s (s.returnFrame e) :=
  (KeepsNotices.of_eq ((released_only s e).keeps .latched (by decide))).trans (enter_keepsNotices _ _)

theorem badFrame_badFrames (s : State) : s.badFrame.counters.badFrames = min 65535 (s.counters.badFrames + 1) :=
  (latch_only _ .badFrame).keeps .badFrames (by decide)

end

/-- Settles O48: what the two commands compare is `compareBit`, and what either leaves is the frame put back. -/
theorem frameIsPutBackAtItsPlace : Obligations.FrameIsPutBackAtItsPlace := by
  unfold Obligations.FrameIsPutBackAtItsPlace
  intro s t dt bit level ht hl
  have hlost : exec (.lostContention ⟨dt, bit, level⟩) s = .next (t.lostContention bit level) := exec_live rfl ht hl
  have herror : exec (.transmitError ⟨dt, bit, level⟩) s = .next (t.transmitError bit level) := exec_live rfl ht hl
  rw [hlost, herror]
  refine ⟨fun hf => ?none, fun f hf => ?flying⟩
  case none =>
    unfold State.lostContention State.transmitError
    rw [hf]
    exact ⟨rfl, rfl⟩
  case flying =>
    intro sent lost error back rest released counted
    have hreleased (v : State) (hv : ChangesOnly (.badFrames :: reporting) t v) : released v (v.released f.entry) := by
      have ho (i : LocalHead) : v.owns i = t.owns i := owns_of_same (hv.keeps .resetting (by decide)) i
      have hc (i : LocalHead) : v.claim i = t.claim i := hv.keeps (.claim i) (by simp [reporting])
      have hfh : v.fh = t.fh := by
        unfold State.fh
        rw [(hv.keeps .resetting (by decide)).2.2.2]
      refine ⟨released_lbi v f.entry, fun i => ?_, released_only v f.entry⟩
      rw [released_claim, ho, hc, hfh]
    refine ⟨fun h => by rw [lostContention_other hf h], fun h => by rw [transmitError_other hf h], fun h => ?lost,
      fun h => ?error⟩
    case lost =>
      exact ⟨t.released f.entry, t.returnFrame f.entry, by rw [lostContention_lost hf h], hreleased t (.refl _ t), rfl,
        returnFrame_room⟩
    case error =>
      have hbad := badFrame_only t
      have hreturn := returnFrame_only t.badFrame f.entry
      refine ⟨t.badFrame.released f.entry, t.errorStop f, by rw [transmitError_stops hf h],
        hreleased t.badFrame hbad, rfl,
        ?_, ?_, ?_⟩
      · exact returnFrame_inFlight t.badFrame f.entry
      · exact (hreturn.keeps .badFrames (by decide)).trans (badFrame_badFrames t)
      · exact returnFrame_keepsNotices t.badFrame f.entry .badFrame (latch_has _ _)

end Sys2Proof.Machine
end

section
/-!
Reception: a bad frame (O49), and what every valid frame does before its owner takes it (O50).
-/
namespace Sys2Proof.Machine

/-! ## Bad frames -/

theorem frameLengthFits_eq (r : FrameRead) : frameLengthFits r =
    !(FrameKind.ofCode r.kind.toNat).any fun k => decide (r.len.toNat ≠ k.length) := by
  unfold frameLengthFits
  cases FrameKind.ofCode r.kind.toNat with
  | none => rfl
  | some k => simp [beq_eq_decide]

/-- A frame is bad where one of R166's tests fails, whichever comes first. -/
theorem frameBad_eq (r : FrameRead) : frameBad r =
    (decide (8 < r.len.toNat) || (FrameKind.ofCode r.kind.toNat).any (fun k => decide (r.len.toNat ≠ k.length))
      || r.crc != crc16 (checkedBits r.cls.toNat r.kind.toNat r.src.toNat r.len.toNat r.payload)
      || r.endDominant || r.cutShort) := by
  unfold frameBad judgeFrame
  rw [frameLengthFits_eq]
  by_cases hlen : 8 < r.len.toNat
  · simp [hlen]
  · cases hfits : (FrameKind.ofCode r.kind.toNat).any (fun k => decide (r.len.toNat ≠ k.length)) with
    | true => simp [hlen]
    | false =>
      by_cases hcrc : r.crc = crc16 (checkedBits r.cls.toNat r.kind.toNat r.src.toNat r.len.toNat r.payload)
      · cases r.endDominant <;> cases r.cutShort <;> simp [hlen, hcrc]
      · have hc : (r.crc != crc16 (checkedBits r.cls.toNat r.kind.toNat r.src.toNat r.len.toNat r.payload)) = true :=
          bne_iff_ne.2 hcrc
        rw [hc]
        simp [hlen, hcrc]

/-- Settles O49: a frame is bad as `frameBad_eq` says, and is counted where the own transmit error has not
counted it. -/
theorem badFrameIsCountedOnce : Obligations.BadFrameIsCountedOnce := by
  unfold Obligations.BadFrameIsCountedOnce
  intro s t dt r ht hr wrongLength wrongCheck bad
  have hx : exec (.badFrameReceived dt r) s = .next (t.badReceived r) := exec_live rfl ht (reads_live hr)
  have hbad : frameBad r = bad := frameBad_eq r
  have he : t.badReceived r =
      if bad = true then if t.lbi.errorCounted = true then t.frameEnd else t.frameEnd.badFrame else t := by
    unfold State.badReceived
    rw [hr, hbad, Bool.true_and]
  refine ⟨fun hb hc => ?counted, fun hb hc => ?notAgain, fun hb => ?good⟩
  case counted =>
    have hu : t.badReceived r = t.frameEnd.badFrame := by simp [he, hb, hc]
    refine ⟨_, hx, hu, ?_, ?_, ?_, (badReceived_only t r).widen (by decide)⟩
    · rw [hu]
      exact ((badFrame_only t.frameEnd).keeps .receive (by decide)).1
    · rw [hu]
      exact badFrame_badFrames t.frameEnd
    · rw [hu]
      exact latch_has _ _
  case notAgain =>
    rw [hx, he, if_pos hb, if_pos hc]
    rfl
  case good =>
    rw [hx, he, if_neg (by simp [hb])]

/-! ## Valid frames -/

/-- A command whose effect changes nothing comes to the passing of time, in a reset or out of it. -/
theorem exec_unchanged {c : Instr} {s t : State} (hc : actsInReset c = false) (ht : s.elapse (elapsedBefore c) = t)
    (h : commandEffect c t = t) : exec c s = .next t := by
  subst ht
  rw [exec_eq_whenLive hc]
  unfold State.whenLive
  dsimp only
  rw [h, ite_self]

section
variable {s : State}

theorem receiveOr_unread (h : s.reads = false) (src : Address) (k : FrameKind) (b : List Byte)
    (echo owner : State → State) : s.receiveOr src k b echo owner = s := by
  unfold State.receiveOr
  rw [h, Bool.false_and, receive_unread h]
  rfl

theorem receiveJoinEcho_unread (h : s.reads = false) : s.receiveJoinEcho = s := by
  unfold State.receiveJoinEcho
  split
  · rw [h, Bool.false_and]
    rfl
  · rfl

theorem receiveUnowned_unread (h : s.reads = false) (src : Address) (k : Nat) (b : List Byte) :
    s.receiveUnowned src k b = s := by
  unfold State.receiveUnowned
  rw [h, Bool.false_and, receive_unread h]
  rfl

theorem badReceived_unread (h : s.reads = false) (r : FrameRead) : s.badReceived r = s := by
  unfold State.badReceived
  rw [h, Bool.false_and]
  rfl

theorem receiveUnowned_heard {src : Address} {k : Nat} {b : List Byte} (hr : s.reads = true)
    (he : s.isEcho src k b = false) : s.receiveUnowned src k b = s.frameEnd.heardOther src := by
  unfold State.receiveUnowned
  rw [he, Bool.and_false, receive_reads hr]
  rfl

theorem receiveUnowned_echo {src : Address} {k : Nat} {b : List Byte} (hr : s.reads = true)
    (he : s.isEcho src k b = true) : s.receiveUnowned src k b = s.completed := by
  unfold State.receiveUnowned
  rw [hr, he]
  rfl

theorem endIsolation_eq : s.endIsolation = { s with sdu := { s.sdu with
    isolated := false, relisten := if s.sdu.isolated then some (s.now + 50000) else s.sdu.relisten } } := by
  unfold State.endIsolation
  cases h : s.sdu.isolated with
  | true => rfl
  | false =>
    have hs : s.sdu = { s.sdu with isolated := false } := by rw [← h]
    simp only [Bool.false_eq_true, if_false]
    rw [← hs]

/-- What every valid frame from another station does, as a whole (R87, R167, R168). -/
theorem heardOther_eq (src : Address) : s.heardOther src =
    ({ s with
      lbi := { s.lbi with silenceStart := s.now },
      sdu := { s.sdu with
        isolated := false, relisten := if s.sdu.isolated then some (s.now + 50000) else s.sdu.relisten } } :
      State).checkAddress src := by
  unfold State.heardOther
  rw [endIsolation_eq]

theorem heardOther_silence (src : Address) : (s.heardOther src).lbi.silenceStart = s.now := by
  rw [heardOther_eq]
  exact (checkAddress_only _ src).keeps .silence (by decide)

theorem heardOther_receive (src : Address) : (s.heardOther src).lbi.receive = s.lbi.receive := by
  rw [heardOther_eq]
  exact ((checkAddress_only _ src).keeps .receive (by decide)).1

theorem heardOther_relisten (src : Address) : (s.heardOther src).sdu.relisten =
    if s.sdu.isolated then some (s.now + 50000) else s.sdu.relisten := by
  rw [heardOther_eq]
  exact ((checkAddress_only _ src).keeps .isolation (by decide)).2

/-- A frame on an address of another station raises no conflict (R175). -/
theorem heardOther_other {src : Address} (h : src ≠ s.addr) :
    ChangesOnly [.silence, .isolation] s (s.heardOther src) := by
  have hc : ∀ t : State, t.addr = s.addr → t.checkAddress src = t := fun t ht => if_neg (by rw [ht]; exact h)
  unfold State.heardOther
  rw [hc _ (by rw [endIsolation_eq]; rfl)]
  exact (setSilence_only s _).comp (endIsolation_only _)

/-- A conflict is raised by whatever comes from this station's own address. -/
theorem checkAddress_own {src : Address} (h : src = s.addr) : (s.checkAddress src).sc.addressConflict = true
    ∧ hasNotice (s.checkAddress src).sc.latched .addressConflict = true := by
  unfold State.checkAddress
  rw [if_pos h]
  exact ⟨(latch_only _ _).keeps .addressConflict (by decide), latch_has _ _⟩

/-- A frame on this station's own address raises the conflict and latches it (R167, R175). -/
theorem heardOther_own {src : Address} (h : src = s.addr) : (s.heardOther src).sc.addressConflict = true
    ∧ hasNotice (s.heardOther src).sc.latched .addressConflict = true := by
  rw [heardOther_eq]
  exact checkAddress_own h

end

/-- Settles O50: a valid frame is heard as `heardOther_eq` says, an echo completes, and a station that reads no frames
leaves every frame command without effect. -/
theorem everyValidFrameIsHeard : Obligations.EveryValidFrameIsHeard := by
  unfold Obligations.EveryValidFrameIsHeard
  intro s t dt src kind payload ht
  refine ⟨fun hr he => ?heard, fun hr he => ?echo, fun hr => ?unread⟩
  case heard =>
    have hu : exec (.unownedFrame dt src kind payload) s = .next (s.heard dt src) := by
      refine (exec_live rfl ht (reads_live hr)).trans (congrArg _ ?_)
      unfold State.heard
      rw [ht]
      exact receiveUnowned_heard hr he
    have hheard : s.heard dt src = t.frameEnd.heardOther src := by rw [← ht]; rfl
    have hend := frameEnd_only t
    intro v
    refine ⟨_, hu, rfl, ?_⟩
    rw [hheard]
    refine ⟨heardOther_eq src, heardOther_receive src, heardOther_silence src,
      heardOther_isolated _ src, heardOther_relisten src, fun hs => ?_, fun hs => ?_⟩
    · exact hend.comp (heardOther_other hs)
    · obtain ⟨hc, hn⟩ := heardOther_own (s := t.frameEnd) hs
      exact ⟨hc, hn, (hend.comp (heardOther_only _ src)).widen (by decide)⟩
  case echo =>
    exact (exec_live rfl ht (reads_live hr)).trans (congrArg _ (receiveUnowned_echo hr he))
  case unread =>
    refine ⟨exec_unchanged rfl ht (receiveUnowned_unread hr src kind.toNat payload),
      fun p => ⟨exec_unchanged rfl ht ?_, exec_unchanged rfl ht ?_, exec_unchanged rfl ht ?_⟩,
      fun p => exec_unchanged rfl ht ?_, fun p => exec_unchanged rfl ht ?claim,
      fun p => ⟨exec_unchanged rfl ht ?join, exec_unchanged rfl ht ?_, exec_unchanged rfl ht ?_,
        exec_unchanged rfl ht ?_⟩,
      fun p => ⟨exec_unchanged rfl ht ?hold, exec_unchanged rfl ht ?_, exec_unchanged rfl ht ?_,
        exec_unchanged rfl ht ?_⟩,
      fun p => ⟨exec_unchanged rfl ht ?drawEnd, exec_unchanged rfl ht ?_⟩,
      exec_unchanged rfl ht (receiveJoinEcho_unread hr), fun r => exec_unchanged rfl ht (badReceived_unread hr r)⟩
    case claim | join | hold | drawEnd =>
      rw [commandEffect]
      exact receiveOr_unread hr src _ _ _ _
    all_goals
      rw [commandEffect]
      exact receive_unread hr src _

end Sys2Proof.Machine
end

section
/-!
The notice frames (O45): what latching a notice does, what a clear asks for, and what a mask frame uncovers.
-/
namespace Sys2Proof.Machine

/-! ## Latching a notice -/

theorem notice_bit_eq_idxOf (n : Notice) :
    n.bit = [Notice.addressConflict, .headMapConflict, .configInvalid, .recordUnderrun, .recordOverrun, .headBenched,
      .driveFault, .busIsolated, .steamLow, .verdictEvicted, .detectorSilent, .txDrop, .encoderFault, .lateConfig,
      .cycleAborted, .badFrame].idxOf n := by
  cases n <;> rfl

section
variable {s : State} {n : Notice}

theorem latch_latched (h : hasNotice s.sc.latched n = true) : s.latch n = s :=
  if_pos h

theorem latch_unasked (h : hasNotice s.sc.latched n = false)
    (hq : hasNotice s.sc.mask n = true ∨ s.noticeWaits = true) : s.latch n = s.setLatched n := by
  have hw : (s.setLatched n).noticeWaits = s.noticeWaits := rfl
  unfold State.latch State.requestNotice
  rw [if_neg (by simp [h]), hw]
  rcases hq with hm | hq
  · rw [if_pos hm]
  · rw [if_pos hq, ite_self]

theorem latch_asked (h : hasNotice s.sc.latched n = false) (hm : hasNotice s.sc.mask n = false)
    (hq : s.noticeWaits = false) : s.latch n = (s.setLatched n).handIn (.notice none) := by
  have hw : (s.setLatched n).noticeWaits = false := hq
  unfold State.latch State.requestNotice
  rw [if_neg (by simp [h]), if_neg (by simp [hm]), if_neg (by simp [hw])]

end

/-! ## Latching several notices -/

/-- The station with the latched word `w`. -/
def State.withLatched (s : State) (w : Word) : State :=
  { s with sc := { s.sc with latched := w } }

/-- From `s` to `t` the latched word alone changes, and TX_DROP does not. -/
def LatchesOnly (s t : State) : Prop :=
  ∃ w, t = s.withLatched w ∧ hasNotice w .txDrop = hasNotice s.sc.latched .txDrop

theorem LatchesOnly.refl (s : State) : LatchesOnly s s :=
  ⟨_, rfl, rfl⟩

theorem LatchesOnly.trans {s t u : State} (h₁ : LatchesOnly s t) (h₂ : LatchesOnly t u) : LatchesOnly s u := by
  obtain ⟨v, rfl, hv⟩ := h₁
  obtain ⟨w, rfl, hw⟩ := h₂
  exact ⟨w, rfl, hw.trans hv⟩

theorem LatchesOnly.txDrop {s t : State} (h : LatchesOnly s t) :
    hasNotice t.sc.latched .txDrop = hasNotice s.sc.latched .txDrop := by
  obtain ⟨w, rfl, hw⟩ := h
  exact hw

theorem LatchesOnly.lbi {s t : State} (h : LatchesOnly s t) : t.lbi = s.lbi := by
  obtain ⟨w, rfl, -⟩ := h
  rfl

theorem LatchesOnly.counters {s t : State} (h : LatchesOnly s t) : t.counters = s.counters := by
  obtain ⟨w, rfl, -⟩ := h
  rfl

/-- Latching a notice asks for no NOTICE: the notice is masked, or a NOTICE waits (R179). -/
def State.asksNothing (s : State) (n : Notice) : Prop :=
  n ≠ .txDrop ∧ (hasNotice s.sc.mask n = true ∨ s.noticeWaits = true)

theorem LatchesOnly.asksNothing {s t : State} (h : LatchesOnly s t) {n : Notice} (hn : s.asksNothing n) :
    t.asksNothing n := by
  obtain ⟨w, rfl, -⟩ := h
  exact hn

theorem setLatched_latchesOnly (s : State) {n : Notice} (hn : n ≠ .txDrop) : LatchesOnly s (s.setLatched n) :=
  ⟨_, rfl, (setLatched_hasNotice s n .txDrop).trans (by simp [hn])⟩

theorem latch_latchesOnly {s : State} {n : Notice} (hn : s.asksNothing n) : LatchesOnly s (s.latch n) := by
  cases hl : hasNotice s.sc.latched n with
  | true =>
    rw [latch_latched hl]
    exact .refl s
  | false =>
    rw [latch_unasked hl hn.2]
    exact setLatched_latchesOnly s hn.1

theorem foldl_latch_latchesOnly {l : List Notice} {s : State} (h : ∀ n ∈ l, s.asksNothing n) :
    LatchesOnly s (l.foldl State.latch s) := by
  induction l generalizing s with
  | nil => exact .refl s
  | cons n l ih =>
    have hn := latch_latchesOnly (h n (by simp))
    exact hn.trans (ih fun m hm => hn.asksNothing (h m (by simp [hm])))

theorem foldl_latch_keepsNotices (l : List Notice) (s : State) : KeepsNotices s (l.foldl State.latch s) := by
  induction l generalizing s with
  | nil => exact .of_eq rfl
  | cons n l ih => exact (latch_keepsNotices s n).trans (ih _)

theorem foldl_latch_unlatched {l : List Notice} {s : State} {n : Notice} (hn : n ≠ .txDrop) (hl : n ∉ l)
    (h : hasNotice s.sc.latched n = false) : hasNotice (l.foldl State.latch s).sc.latched n = false := by
  have := foldl_latch_hasNotice (fun _ => true) l s hn
  simpa [h, hl] using this

/-- Where an unmasked notice is among those latched, none of which stood, and no NOTICE waits, the first such asks for a
NOTICE: what stands before it asks for nothing, and what stands after it finds that NOTICE waiting (R179). -/
theorem foldl_latch_asks {l : List Notice} {s : State} (hq : s.noticeWaits = false)
    (hl : ∀ n ∈ l, n ≠ .txDrop ∧ hasNotice s.sc.latched n = false)
    (hask : l.any (fun n => !hasNotice s.sc.mask n) = true) :
    ∃ (t : State) (b : List Notice), LatchesOnly s t ∧ (∀ n ∈ b, n ∈ l)
      ∧ l.foldl State.latch s = b.foldl State.latch (t.handIn (.notice none)) := by
  obtain ⟨n, hfind⟩ : ∃ n, l.find? (fun n => !hasNotice s.sc.mask n) = some n :=
    Option.isSome_iff_exists.1 (List.find?_isSome.2 (List.any_eq_true.1 hask))
  obtain ⟨hm, a, b, rfl, ha⟩ := List.find?_eq_some_iff_append.1 hfind
  have hmask : hasNotice s.sc.mask n = false := by simpa using hm
  have hmasked : ∀ x ∈ a, hasNotice s.sc.mask x = true := fun x hx => by simpa using ha x hx
  obtain ⟨hn, hlatched⟩ := hl n (by simp)
  have hbefore : LatchesOnly s (a.foldl State.latch s) :=
    foldl_latch_latchesOnly fun x hx => ⟨(hl x (by simp [hx])).1, .inl (hmasked x hx)⟩
  have hna : n ∉ a := fun h => by simp [hmasked n h] at hmask
  have hnot := foldl_latch_unlatched hn hna hlatched
  refine ⟨(a.foldl State.latch s).setLatched n, b, hbefore.trans (setLatched_latchesOnly _ hn),
    fun x hx => by simp [hx], ?_⟩
  rw [List.foldl_append, List.foldl_cons]
  obtain ⟨w, hw, -⟩ := hbefore
  rw [latch_asked hnot (by rw [hw]; exact hmask) (by rw [hw]; exact hq)]

/-- With room, the latched notices have no part in handing a frame in. -/
theorem handIn_withLatched_room {s : State} (h : s.lbi.queue.length < 16) (w : Word) (f : TxFrame) :
    (s.withLatched w).handIn f = (s.handIn f).withLatched w := by
  rw [handIn_room s f h, handIn_room (s.withLatched w) f h]
  rfl

theorem handIn_latched_room {s : State} (h : s.lbi.queue.length < 16) (f : TxFrame) :
    (s.handIn f).sc.latched = s.sc.latched := by
  rw [handIn_room s f h]

theorem handIn_notice_waits {s : State} (h : s.lbi.queue.length < 16) :
    (s.handIn (.notice none)).noticeWaits = true := by
  rw [handIn_room s _ h]
  exact List.any_eq_true.2 ⟨_, mem_insertTx.2 (.inl rfl), rfl⟩

/-- With room, the NOTICE asked for is handed in, and the latched word alone changes besides. -/
theorem foldl_latch_room {l : List Notice} {s : State} (hq : s.noticeWaits = false) (hroom : s.lbi.queue.length < 16)
    (hl : ∀ n ∈ l, n ≠ .txDrop ∧ hasNotice s.sc.latched n = false)
    (hask : l.any (fun n => !hasNotice s.sc.mask n) = true) :
    LatchesOnly (s.handIn (.notice none)) (l.foldl State.latch s) := by
  obtain ⟨t, b, ht, hb, heq⟩ := foldl_latch_asks hq hl hask
  have hroomt : t.lbi.queue.length < 16 := by
    obtain ⟨w, rfl, -⟩ := ht
    exact hroom
  have hhand : LatchesOnly (s.handIn (.notice none)) (t.handIn (.notice none)) := by
    obtain ⟨w, rfl, hw⟩ := ht
    exact ⟨w, handIn_withLatched_room hroom w _, hw.trans (by rw [handIn_latched_room hroom])⟩
  rw [heq]
  exact hhand.trans (foldl_latch_latchesOnly fun n hn => ⟨(hl n (hb n hn)).1, .inr (handIn_notice_waits hroomt)⟩)

theorem handIn_full_has {s : State} {f : TxFrame} (h : 16 ≤ s.lbi.queue.length) :
    hasNotice (s.handIn f).sc.latched .txDrop = true :=
  enter_full_has (s := s.nextAge) h

/-- With no room, the NOTICE asked for costs a frame, and TX_DROP is latched (R163). -/
theorem foldl_latch_full {l : List Notice} {s : State} (hq : s.noticeWaits = false) (hfull : 16 ≤ s.lbi.queue.length)
    (hl : ∀ n ∈ l, n ≠ .txDrop ∧ hasNotice s.sc.latched n = false)
    (hask : l.any (fun n => !hasNotice s.sc.mask n) = true) :
    hasNotice (l.foldl State.latch s).sc.latched .txDrop = true := by
  obtain ⟨t, b, ⟨w, rfl, -⟩, -, heq⟩ := foldl_latch_asks hq hl hask
  rw [heq]
  exact foldl_latch_keepsNotices b _ _ (handIn_full_has (s := s.withLatched w) hfull)

/-! ## Clearing notices -/

/-- The condition notices a clear of `w` removes whose condition holds (R178). -/
def State.relatched (s : State) (w : Word) : List Notice :=
  (s.conditions.filter fun c => c.2 && hasNotice w c.1 && hasNotice s.sc.latched c.1).map Prod.fst

section
variable (s : State) (w : Word)

theorem noticesCleared_eq : s.noticesCleared w =
    (s.relatched w).foldl State.latch (s.withLatched (s.sc.latched &&& ~~~w)) :=
  List.foldl_map.symm

theorem relatched_spec {n : Notice} (h : n ∈ s.relatched w) :
    n ≠ .txDrop ∧ hasNotice (s.withLatched (s.sc.latched &&& ~~~w)).sc.latched n = false := by
  obtain ⟨c, hc, rfl⟩ := List.mem_map.1 h
  obtain ⟨hmem, hstands⟩ := List.mem_filter.1 hc
  simp only [Bool.and_eq_true] at hstands
  obtain ⟨⟨-, hw⟩, -⟩ := hstands
  rw [conditions_eq] at hmem
  obtain ⟨m, hm, rfl⟩ := List.mem_map.1 hmem
  refine ⟨?_, (hasNotice_and _ _ _).trans (by simp [hasNotice_not, hw])⟩
  rintro rfl
  exact absurd hm (by decide)

theorem relatched_asks : (s.relatched w).any (fun n => !hasNotice s.sc.mask n) = s.conditions.any fun c =>
    c.2 && hasNotice w c.1 && hasNotice s.sc.latched c.1 && !hasNotice s.sc.mask c.1 := by
  rw [State.relatched, List.any_map, List.any_filter]
  rfl

theorem cleared_txDrop :
    hasNotice (s.sc.latched &&& ~~~w) .txDrop = (hasNotice s.sc.latched .txDrop && !hasNotice w .txDrop) := by
  rw [hasNotice_and, hasNotice_not]

variable {s w}

/-- Where no unmasked notice is latched again, or a NOTICE waits, a clear changes the latched word alone. -/
theorem noticesCleared_quiet
    (h : (s.relatched w).any (fun n => !hasNotice s.sc.mask n) = false ∨ s.noticeWaits = true) :
    LatchesOnly (s.withLatched (s.sc.latched &&& ~~~w)) (s.noticesCleared w) := by
  rw [noticesCleared_eq]
  refine foldl_latch_latchesOnly fun n hn => ⟨(relatched_spec s w hn).1, h.imp_left fun h => ?_⟩
  have hm : ¬ (!hasNotice s.sc.mask n) = true := List.any_eq_false.1 h n hn
  rwa [Bool.not_eq_true', Bool.not_eq_false] at hm

theorem noticesCleared_room (hask : (s.relatched w).any (fun n => !hasNotice s.sc.mask n) = true)
    (hq : s.noticeWaits = false) (hroom : s.lbi.queue.length < 16) :
    LatchesOnly ((s.handIn (.notice none)).withLatched (s.sc.latched &&& ~~~w)) (s.noticesCleared w) := by
  rw [noticesCleared_eq, ← handIn_withLatched_room hroom]
  exact foldl_latch_room (s := s.withLatched _) hq hroom (fun n => relatched_spec s w) hask

theorem noticesCleared_full (hask : (s.relatched w).any (fun n => !hasNotice s.sc.mask n) = true)
    (hq : s.noticeWaits = false) (hfull : 16 ≤ s.lbi.queue.length) :
    hasNotice (s.noticesCleared w).sc.latched .txDrop = true := by
  rw [noticesCleared_eq]
  exact foldl_latch_full (s := s.withLatched _) hq hfull (fun n => relatched_spec s w) hask

end

/-! ## The notice frames -/

section
variable {s t : State} {dt : Nat} {src : Address} {p : BitVec 24}

theorem noticeTaken_iff : s.noticeTaken src p = true ↔ s.joined = true ∧ s.roleOf src = some .panel
    ∧ (noticeTarget p = s.addr.toNat ∨ noticeTarget p = 255) := by
  rw [State.noticeTaken, Bool.and_eq_true, fromPanel_iff, State.targeted, decide_eq_true_iff, and_assoc]

/-- A NOTICE is asked for where none waits. -/
theorem requestNotice_eq (s : State) : s.requestNotice =
    if s.noticeWaits = true then s else s.handIn (.notice none) :=
  rfl

/-- A mask that only grows uncovers nothing. -/
theorem changeMask_set (s : State) (w : Word) :
    s.changeMask (s.sc.mask ||| w) = { s with sc := { s.sc with mask := s.sc.mask ||| w } } := by
  have h : s.sc.latched &&& s.sc.mask &&& ~~~(s.sc.mask ||| w) = 0 := by
    apply BitVec.eq_of_getLsbD_eq
    intro i hi
    simp only [BitVec.getLsbD_and, BitVec.getLsbD_not, BitVec.getLsbD_or, BitVec.ofNat_eq_ofNat, BitVec.getLsbD_zero]
    cases s.sc.mask.getLsbD i <;> simp
  exact if_pos h

/-- Uncovering the notices of a word asks for a NOTICE where one of them stands that was masked (R179). -/
theorem changeMask_clear (s : State) (w : Word) :
    let v : State := { s with sc := { s.sc with mask := s.sc.mask &&& ~~~w } }
    s.changeMask (s.sc.mask &&& ~~~w) =
      if s.sc.latched &&& s.sc.mask &&& w = 0 ∨ s.noticeWaits = true then v else v.handIn (.notice none) := by
  have h : s.sc.latched &&& s.sc.mask &&& ~~~(s.sc.mask &&& ~~~w) = s.sc.latched &&& s.sc.mask &&& w := by
    apply BitVec.eq_of_getLsbD_eq
    intro i hi
    simp only [BitVec.getLsbD_and, BitVec.getLsbD_not, hi, decide_true, Bool.true_and]
    cases s.sc.mask.getLsbD i <;> simp
  unfold State.changeMask
  dsimp only
  rw [h, requestNotice_eq]
  by_cases hz : s.sc.latched &&& s.sc.mask &&& w = 0
  · rw [if_pos hz, if_pos (.inl hz)]
  · rw [if_neg hz]
    by_cases hq : s.noticeWaits = true
    · exact (if_pos hq).trans (if_pos (.inr hq)).symm
    · exact (if_neg hq).trans (if_neg (not_or.2 ⟨hz, hq⟩)).symm

variable (ht : s.heard dt src = t) (hr : (s.elapse dt).reads = true)
include ht hr

theorem exec_noticeClear : exec (.noticeClear dt src p) s = .next (t.takeNoticeClear src p) :=
  exec_receive (c := .noticeClear dt src p) (owner := fun u => u.takeNoticeClear src p) rfl rfl ht hr

theorem exec_noticeMaskSet : exec (.noticeMaskSet dt src p) s = .next (t.takeMaskSet src p) :=
  exec_receive (c := .noticeMaskSet dt src p) (owner := fun u => u.takeMaskSet src p) rfl rfl ht hr

theorem exec_noticeMaskClear : exec (.noticeMaskClear dt src p) s = .next (t.takeMaskClear src p) :=
  exec_receive (c := .noticeMaskClear dt src p) (owner := fun u => u.takeMaskClear src p) rfl rfl ht hr

end

/-- Settles O45: what latching asks for, what a clear leaves by `LatchesOnly`, and the three frames by the shared step
of a received frame. -/
theorem noticeFramesClearAndMask : Obligations.NoticeFramesClearAndMask := by
  unfold Obligations.NoticeFramesClearAndMask
  refine ⟨fun s n => ⟨latch_latched, latch_unasked, latch_asked, latch_has s n, notice_bit_eq_idxOf n⟩,
    fun s w => ?clear, fun s t dt src p ht hr => ?frames⟩
  case clear =>
    intro u asks waits
    have hasks : asks = (s.relatched w).any fun n => !hasNotice s.sc.mask n := (relatched_asks s w).symm
    refine ⟨fun c hc => noticesCleared_condition s w hc, fun n hn => noticesCleared_event s w hn, fun h => ?_,
      fun ha hq hroom => ?_, fun ha hq hfull => noticesCleared_full (hasks ▸ ha) hq hfull⟩
    · have hu := noticesCleared_quiet (h.imp_left fun ha => hasks.symm.trans ha)
      exact ⟨hu.lbi, hu.counters, hu.txDrop.trans (cleared_txDrop s w)⟩
    · have hu := noticesCleared_room (hasks.symm.trans ha) hq hroom
      have hcounters : (s.handIn (.notice none)).counters = s.counters := by rw [handIn_room s _ hroom]
      exact ⟨hu.lbi, hu.counters.trans hcounters, hu.txDrop.trans (cleared_txDrop s w)⟩
  case frames =>
    intro taken w
    have htaken : t.noticeTaken src p = true ↔ taken := noticeTaken_iff
    rw [exec_noticeClear ht hr, exec_noticeMaskSet ht hr, exec_noticeMaskClear ht hr]
    unfold State.takeNoticeClear State.takeMaskSet State.takeMaskClear
    refine ⟨fun h => ?_, fun h => ?_, fun h => ?_, fun h => ?_⟩
    · have hn : ¬ t.noticeTaken src p = true := fun hk => h (htaken.1 hk)
      exact ⟨congrArg _ (if_neg hn), congrArg _ (if_neg hn), congrArg _ (if_neg hn)⟩
    · rw [if_pos (htaken.2 h), clearNotices_eq_noticesCleared]
      exact ⟨rfl, clearNotices_eq_noticesCleared t w ▸ clearNotices_only t w⟩
    · rw [if_pos (htaken.2 h), changeMask_set]
    · rw [if_pos (htaken.2 h), changeMask_clear]
      rfl

end Sys2Proof.Machine
end

section
/-!
The frames the station sends (O52): they are judged valid, their payloads are the layouts of 12, and what the part reads
of its own kinds is what it sent.
-/
namespace Sys2Proof.Machine

/-! ## A frame as a whole -/

theorem FrameKind.ofCode_code (k : FrameKind) : FrameKind.ofCode k.code = some k := by
  cases k <;> rfl

theorem FrameKind.code_lt (k : FrameKind) : k.code < 32 := by
  cases k <;> decide

theorem FrameKind.cls_lt (k : FrameKind) : k.cls < 8 := by
  cases k <;> decide

theorem FrameKind.length_le (k : FrameKind) : k.length ≤ 8 := by
  cases k <;> decide

theorem TxFrame.payload_length (f : TxFrame) : f.payload.length = f.kind.length := by
  cases f with
  | notice content => cases content <;> rfl
  | _ => rfl

/-- A frame read undisturbed has the length its kind asks for and the check that was sent with it (R159, R166). -/
theorem judgeFrame_asRead (f : TxFrame) (src : Address) : judgeFrame (f.asRead src) = .valid := by
  have hlen : (f.asRead src).len.toNat = f.payload.length := by
    have := f.kind.length_le
    exact Nat.mod_eq_of_lt (by rw [f.payload_length]; omega)
  have hkind : (f.asRead src).kind.toNat = f.kind.code := Nat.mod_eq_of_lt f.kind.code_lt
  have hcls : (f.asRead src).cls.toNat = f.cls := Nat.mod_eq_of_lt f.kind.cls_lt
  have hfits : frameLengthFits (f.asRead src) = true := by
    rw [frameLengthFits_eq, hlen, hkind, FrameKind.ofCode_code, f.payload_length]
    simp
  have hcrc : (f.asRead src).crc = crc16 (checkedBits (f.asRead src).cls.toNat (f.asRead src).kind.toNat
      (f.asRead src).src.toNat (f.asRead src).len.toNat (f.asRead src).payload) := by
    rw [hlen, hkind, hcls]
    dsimp only [TxFrame.asRead]
  have hshort : ¬ (f.asRead src).len.toNat > 8 := by
    rw [hlen, f.payload_length]
    exact Nat.not_lt.2 f.kind.length_le
  unfold judgeFrame
  rw [if_neg hshort, hfits, if_neg (not_not.2 hcrc)]
  rfl

theorem wireBits_length (cls kind src : Nat) (payload : List Byte) :
    (wireBits cls kind src payload).length = 40 + 8 * payload.length := by
  simp only [wireBits, checkedBits, List.length_append, List.length_cons, List.length_nil, bitsOf_length,
    payloadBits_length, List.length_replicate]
  omega

/-! ## Payloads as one number -/

/-- A payload's last byte is its number's lowest eight bits. -/
theorem bytesOf_succ (n v : Nat) : bytesOf (n + 1) v = bytesOf n (v / 256) ++ [byteOf v] := by
  have hbefore : ∀ k ∈ List.range n, byteOf (v / 2 ^ (8 * (n + 1 - 1 - k)))
      = byteOf (v / 256 / 2 ^ (8 * (n - 1 - k))) := by
    intro k hk
    have he : 8 * (n + 1 - 1 - k) = 8 + 8 * (n - 1 - k) := by
      have := List.mem_range.1 hk
      omega
    rw [he, Nat.pow_add, Nat.div_div_eq_div_mul]
  unfold bytesOf
  rw [List.range_succ, List.map_append, List.map_congr_left hbefore]
  simp

theorem byteOf_mul_add (x c : Nat) : byteOf (x * 256 + c) = byteOf c := by
  apply BitVec.eq_of_toNat_eq
  simp [byteOf]

theorem byteOf_mod (v : Nat) : byteOf (v % 256) = byteOf v := by
  rw [← byteOf_mul_add (v / 256), Nat.div_add_mod']

theorem bytesOf_mul_add (n x : Nat) {c : Nat} (h : c < 256) :
    bytesOf (n + 1) (x * 256 + c) = bytesOf n x ++ [byteOf c] := by
  have hx : (x * 256 + c) / 256 = x := by omega
  rw [bytesOf_succ, byteOf_mul_add, hx]

theorem toNat_append {m n : Nat} (x : BitVec m) (y : BitVec n) : (x ++ y).toNat = x.toNat * 2 ^ n + y.toNat := by
  rw [BitVec.toNat_append, ← Nat.shiftLeft_add_eq_or_of_lt y.isLt, Nat.shiftLeft_eq]

section
variable {m : Nat} (n : Nat) (x : BitVec m)

theorem bytesOf_append_byte (b : BitVec 8) : bytesOf (n + 1) (x ++ b).toNat = bytesOf n x.toNat ++ [b] := by
  have hb : (x ++ b).toNat = x.toNat * 256 + b.toNat := toNat_append x b
  rw [hb, bytesOf_mul_add n _ b.isLt, byteOf, BitVec.ofNat_toNat, BitVec.setWidth_eq]

theorem bytesOf_append_word (w : BitVec 16) :
    bytesOf (n + 2) (x ++ w).toNat = bytesOf n x.toNat ++ wordBytes w.toNat := by
  have hw := w.isLt
  have hsplit : (x ++ w).toNat = (x.toNat * 256 + w.toNat / 256) * 256 + w.toNat % 256 := by
    rw [toNat_append]
    omega
  rw [hsplit, bytesOf_mul_add (n + 1) _ (by omega), bytesOf_mul_add n _ (by omega), byteOf_mod,
    List.append_assoc]
  rfl

/-- The three bytes that end a payload are those of its lowest 24 bits. -/
theorem bytesOf_mul_add_group (x : Nat) {g : Nat} (h : g < 2 ^ 24) : bytesOf (n + 3) (x * 2 ^ 24 + g)
    = bytesOf n x ++ [byteOf (g / 2 ^ 16), byteOf (g / 2 ^ 8), byteOf g] := by
  have hpeel : ∀ y q, y * 256 + q = (y + q / 256) * 256 + q % 256 := fun y q => by omega
  have h₀ : x * 2 ^ 24 + g = (x * 256 * 256 + g / 256) * 256 + g % 256 := by
    rw [← hpeel]
    omega
  have htop : g / 256 / 256 = g / 2 ^ 16 := Nat.div_div_eq_div_mul g 256 256
  rw [h₀, bytesOf_mul_add (n + 2) _ (Nat.mod_lt g (by decide)), hpeel (x * 256) (g / 256),
    bytesOf_mul_add (n + 1) _ (Nat.mod_lt _ (by decide)), htop, bytesOf_mul_add n x (by omega), byteOf_mod,
    byteOf_mod]
  simp

end

theorem wordBytes_ofNat (v : Nat) : wordBytes (BitVec.ofNat 16 v).toNat = wordBytes v := by
  have hhigh : byteOf (v % 65536 / 256) = byteOf (v / 256) := by
    rw [← byteOf_mod, ← byteOf_mod (v / 256)]
    congr 1
    omega
  have hlow : byteOf (v % 65536) = byteOf v := by
    rw [← byteOf_mod, ← byteOf_mod v]
    congr 1
    omega
  rw [BitVec.toNat_ofNat, wordBytes, wordBytes, ← hhigh, ← hlow]

theorem bytesOf_byte (v : Nat) : bytesOf 1 v = [byteOf v] :=
  bytesOf_succ 0 v

theorem bytesOf_word (v : Nat) : bytesOf 2 v = wordBytes v := by
  rw [bytesOf_succ, bytesOf_byte]
  rfl

theorem byteOf_toNat_ofNat (v : Nat) : byteOf (BitVec.ofNat 8 v).toNat = byteOf v :=
  byteOf_mod v

theorem toNat_ofNat_lt {n v : Nat} (h : v < 2 ^ n) : (BitVec.ofNat n v).toNat = v :=
  Nat.mod_eq_of_lt h

/-! ## The layouts of the frames sent -/

theorem outcome_code_eq (o : JarOutcome) :
    o.code = [JarOutcome.cappedOk, .cappedSuspect, .noCap, .benched, .stopped, .aborted].idxOf o := by
  cases o <;> rfl

theorem outcome_code_lt (o : JarOutcome) : o.code < 6 := by
  cases o <;> decide

theorem occasion_code_eq (o : Occasion) : o.code = [Occasion.bench, .ret, .answer, .jogEnd].idxOf o := by
  cases o <;> rfl

theorem occasion_code_lt (o : Occasion) : o.code < 4 := by
  cases o <;> decide

theorem jarFlag_bit_eq (f : JarFlag) :
    f.bit = [JarFlag.recordMissing, .recordRange, .overfill, .headspaceHigh, .dwellClamped, .purgeAdded, .shortFlush,
      .noFlush, .noCap, .driveLate, .driveFault, .underTorque, .overTorque, .crossThread, .jog, .aborted].idxOf f := by
  cases f <;> rfl

theorem jarReport_payload (r : JarReport) (hh : r.head < 64) (ha : r.angle < 4096) :
    (TxFrame.jarReport r).payload = bytesOf 8 (BitVec.ofNat 16 r.seq ++ r.flags ++ BitVec.ofNat 8 r.torque
      ++ BitVec.ofNat 3 r.outcome.code ++ BitVec.ofNat 3 r.profile.val ++ BitVec.ofNat 6 r.head
      ++ BitVec.ofNat 12 r.angle).toNat := by
  have ho := outcome_code_lt r.outcome
  have hp := r.profile.isLt
  have hgroup : r.group < 2 ^ 24 := by
    unfold JarReport.group
    omega
  have hnum : (BitVec.ofNat 16 r.seq ++ r.flags ++ BitVec.ofNat 8 r.torque ++ BitVec.ofNat 3 r.outcome.code
      ++ BitVec.ofNat 3 r.profile.val ++ BitVec.ofNat 6 r.head ++ BitVec.ofNat 12 r.angle).toNat
      = (BitVec.ofNat 16 r.seq ++ r.flags ++ BitVec.ofNat 8 r.torque).toNat * 2 ^ 24 + r.group := by
    have hangle : (BitVec.ofNat 12 r.angle).toNat = r.angle := toNat_ofNat_lt ha
    have hhead : (BitVec.ofNat 6 r.head).toNat = r.head := toNat_ofNat_lt hh
    have hprofile : (BitVec.ofNat 3 r.profile.val).toNat = r.profile.val := toNat_ofNat_lt hp
    have houtcome : (BitVec.ofNat 3 r.outcome.code).toNat = r.outcome.code := toNat_ofNat_lt (by omega)
    rw [toNat_append, toNat_append, toNat_append, toNat_append, hangle, hhead, hprofile, houtcome, JarReport.group]
    ring
  rw [hnum, bytesOf_mul_add_group 5 _ hgroup, bytesOf_append_byte 4, bytesOf_append_word 2, bytesOf_word,
    wordBytes_ofNat]
  rfl

/-- Byte 1 of a HEAD_STATE: three bits unused, occasion, reason, benched (12). -/
theorem benchCode_eq (b : Option BenchReason) (o : Occasion) :
    BitVec.ofNat 8 (benchCode b + o.code * 8)
      = (0 : BitVec 3) ++ BitVec.ofNat 2 o.code ++ BitVec.ofNat 2 ([none, some .drive, some .duds].idxOf b)
        ++ BitVec.ofBool b.isSome := by
  cases o <;> rcases b with _ | _ | _ <;> decide

theorem append_headByte {m : Nat} (x : BitVec m) (a : BitVec 3) (b c : BitVec 2) (d : BitVec 1) :
    (x ++ a ++ b ++ c ++ d).toNat = (x ++ (a ++ b ++ c ++ d)).toNat := by
  simp only [toNat_append]
  ring

theorem headState_payload (r : HeadReport) :
    (TxFrame.headState r).payload = bytesOf 7 (BitVec.ofNat 8 r.head ++ (0 : BitVec 3) ++ BitVec.ofNat 2 r.occasion.code
      ++ BitVec.ofNat 2 ([none, some .drive, some .duds].idxOf r.bench) ++ BitVec.ofBool r.bench.isSome
      ++ BitVec.ofInt 16 r.trim ++ BitVec.ofNat 8 r.duds ++ BitVec.ofNat 16 r.lastDwell).toNat := by
  rw [bytesOf_append_word 5, bytesOf_append_byte 4, bytesOf_append_word 2, append_headByte, bytesOf_append_byte 1,
    ← benchCode_eq, bytesOf_byte, byteOf_toNat_ofNat, wordBytes_ofNat]
  rfl

theorem counterReply_payload (g a b c : Nat) : (TxFrame.counterReply g a b c).payload
    = bytesOf 7 (BitVec.ofNat 8 g ++ BitVec.ofNat 16 a ++ BitVec.ofNat 16 b ++ BitVec.ofNat 16 c).toNat := by
  rw [bytesOf_append_word 5, bytesOf_append_word 3, bytesOf_append_word 1, bytesOf_byte, byteOf_toNat_ofNat,
    wordBytes_ofNat, wordBytes_ofNat, wordBytes_ofNat]
  rfl

theorem notice_payload (c : NoticeContent) :
    (TxFrame.notice (some c)).payload = bytesOf 4 (c.latched ++ c.mask).toNat := by
  rw [bytesOf_append_word 2, bytesOf_word]
  rfl

/-- Byte 0 of a JOIN: three bits unused, cause, state, the role CAPPER (12). -/
theorem joinByte_eq (c : ResetCause) (h : HeardState) :
    BitVec.ofNat 8 (1 + h.code * 8 + c.code * 16)
      = (0 : BitVec 3) ++ BitVec.ofBool (c == .pin) ++ BitVec.ofBool (h == .joined) ++ (1 : BitVec 3) := by
  cases c <;> cases h <;> decide

theorem join_payload (j : JoinReport) : (TxFrame.join j).payload
    = bytesOf 3 ((0 : BitVec 3) ++ BitVec.ofBool (j.cause == .pin) ++ BitVec.ofBool (j.heard == .joined)
      ++ (1 : BitVec 3) ++ BitVec.ofNat 8 j.first ++ BitVec.ofNat 8 j.count).toNat := by
  rw [bytesOf_append_byte 2, bytesOf_append_byte 1, ← joinByte_eq, bytesOf_byte, byteOf_toNat_ofNat]
  rfl

theorem drawClaim_payload (g f d : Nat) : (TxFrame.drawClaim g f d).payload
    = bytesOf 4 (BitVec.ofNat 8 g ++ BitVec.ofNat 8 f ++ BitVec.ofNat 16 d).toNat := by
  rw [bytesOf_append_word 2, bytesOf_append_byte 1, bytesOf_byte, byteOf_toNat_ofNat, wordBytes_ofNat]
  rfl

/-! ## What the part reads of its own kinds -/

theorem drawClaim_fields {g f d : Nat} (hg : g < 256) (hf : f < 256) (hd : d < 65536) :
    let p : BitVec 32 := BitVec.ofNat 8 g ++ BitVec.ofNat 8 f ++ BitVec.ofNat 16 d
    claimHead p = g ∧ claimUnits p = f ∧ claimDwell p = d := by
  have hp : (BitVec.ofNat 8 g ++ BitVec.ofNat 8 f ++ BitVec.ofNat 16 d).toNat = (g * 256 + f) * 65536 + d := by
    rw [toNat_append, toNat_append, toNat_ofNat_lt hg, toNat_ofNat_lt hf, toNat_ofNat_lt hd]
    rfl
  refine ⟨(field_eq _ 24 8).trans ?_, (field_eq _ 16 8).trans ?_, (field_eq _ 0 16).trans ?_⟩ <;>
  · rw [hp]
    omega

/-- A JOIN is read as the role CAPPER, the state, the first head and the head count it was made of (R171, 12). -/
theorem join_fields (c : ResetCause) (h : HeardState) {f n : Nat} (hf : f < 256) (hn : n < 256) :
    let p : BitVec 24 := BitVec.ofNat 8 (1 + h.code * 8 + c.code * 16) ++ BitVec.ofNat 8 f ++ BitVec.ofNat 8 n
    joinRole p = some .capper ∧ joinHeard p = h ∧ joinFirst p = f ∧ joinCount p = n := by
  have hh : h.code < 2 := by cases h <;> decide
  have hc : c.code < 2 := by cases c <;> decide
  have hbyte : (BitVec.ofNat 8 (1 + h.code * 8 + c.code * 16)).toNat = 1 + h.code * 8 + c.code * 16 :=
    toNat_ofNat_lt (by omega)
  intro p
  have hp : p.toNat = ((1 + h.code * 8 + c.code * 16) * 256 + f) * 256 + n := by
    rw [toNat_append, toNat_append, hbyte, toNat_ofNat_lt hf, toNat_ofNat_lt hn]
    rfl
  have hrole : field p 16 3 = 1 := by
    rw [field_eq, hp]
    omega
  have hstate : p.getLsbD 19 = decide (h.code = 1) := by
    have hbit : p.toNat / 2 ^ 19 % 2 = h.code := by
      rw [hp]
      omega
    rw [BitVec.getLsbD, Nat.testBit_eq_decide_div_mod_eq, hbit]
  refine ⟨congrArg roleOfCode hrole, ?_, (field_eq p 8 8).trans ?_, (field_eq p 0 8).trans ?_⟩
  · rw [joinHeard, hstate]
    cases h <;> rfl
  · rw [hp]
    omega
  · rw [hp]
    omega

/-- Settles O52: the judgement of an undisturbed frame, the layouts one by one, and the fields read back from them. -/
theorem ownFramesReadBack : Obligations.OwnFramesReadBack := by
  unfold Obligations.OwnFramesReadBack
  refine ⟨fun f src => ⟨judgeFrame_asRead f src, f.payload_length, ?_⟩, fun r hh ha => ?_, jarFlag_bit_eq, fun r => ?_,
    notice_payload, counterReply_payload, join_payload, fun g f d hg hf hd => ?_, fun q hq => ?_, fun g hg => ?_,
    fun j hf hn => ?_⟩
  · rw [wireBits_length, f.payload_length]
  · rw [jarReport_payload r hh ha, outcome_code_eq]
  · rw [headState_payload r, occasion_code_eq]
  · exact ⟨_, (drawClaim_payload g f d).symm, drawClaim_fields hg hf hd⟩
  · exact ⟨BitVec.ofNat 16 q, by rw [bytesOf_word, wordBytes_ofNat]; rfl, toNat_ofNat_lt hq⟩
  · exact ⟨BitVec.ofNat 8 g, by rw [bytesOf_byte, byteOf_toNat_ofNat]; rfl, toNat_ofNat_lt hg⟩
  · exact ⟨_, by rw [join_payload, ← joinByte_eq], join_fields j.cause j.heard hf hn⟩

end Sys2Proof.Machine
end

section
/-!
The values that the end of a reset and the join leave: one fact for each block that is set anew, and the end of a reset
put together from them (O5).
-/
namespace Sys2Proof.Machine

/-! ## Blocks set anew -/

theorem turretFresh_of_atReset {u : State} {now : Nat} (h : u.ttu = .atReset now) : u.turretFresh now := by
  unfold State.turretFresh
  rw [h]
  exact ⟨rfl, rfl, rfl, rfl, rfl, rfl, rfl, rfl, rfl⟩

/-- The Steam Draw Unit set anew, whatever stands behind the filter of the steam-low input (R64; log 18). -/
theorem steamFresh_of_atReset {u : State} {input : StloLevel} {since : Option Nat}
    (h : u.sdu = { Sdu.atReset with stloInput := input, stloSince := since }) : u.steamFresh := by
  unfold State.steamFresh State.claim
  rw [h]
  exact ⟨rfl, rfl, rfl, rfl, rfl, rfl, rfl, fun i => PerHead.get_all _ i⟩

theorem linkFresh_of_atReset {u : State} (h : u.dlc = .atReset) : u.linkFresh := by
  unfold State.linkFresh State.slot
  rw [h]
  refine ⟨rfl, fun i => ?_⟩
  rw [show Dlc.atReset.slots.get i = .empty from PerHead.get_all _ i]
  exact ⟨rfl, rfl, rfl⟩

theorem controlFresh_of_atReset {u : State} {cause : ResetCause} {straps : Straps} (h : u.sc = .atReset cause straps) :
    u.controlFresh straps.addr straps.hcPins straps.fhPins := by
  unfold State.controlFresh State.addr State.hc State.fh State.setupStatus
  rw [h]
  exact ⟨rfl, rfl, rfl, rfl, rfl, rfl, rfl, rfl, rfl, rfl, rfl, rfl, rfl, rfl⟩

/-- A station whose blocks are all set anew, with what its heads may keep: the bench, the trim and the dud count. -/
theorem blocksFresh_of_atReset {u : State} {now age : Nat} (httu : u.ttu = .atReset now) (hrq : u.rq = [])
    (hsdu : u.sdu = .atReset) (hdlc : u.dlc = .atReset) (hawaiting : u.vu.awaiting = []) (hrun : u.vu.noVerdictRun = 0)
    (hlbi : u.lbi = .atReset now age) (hhead : ∀ i, ∃ h : Head, u.head i = h.afterPin)
    (hlearned : ∀ i, ∃ v : VerdictSlot, u.learned i = v.afterPin) : u.blocksFresh now := by
  have hinput : u.stloFresh := by
    unfold State.stloFresh
    rw [hsdu]
    exact ⟨rfl, rfl⟩
  refine ⟨turretFresh_of_atReset httu, hrq, steamFresh_of_atReset hsdu, hinput, linkFresh_of_atReset hdlc, hawaiting,
    hrun, ?_, fun i => ?_⟩
  · rw [hlbi]
    exact ⟨rfl, rfl, rfl, rfl⟩
  · obtain ⟨h, hh⟩ := hhead i
    obtain ⟨v, hv⟩ := hlearned i
    rw [hh, hv]
    exact ⟨rfl, rfl, rfl, rfl, rfl, rfl, rfl, rfl⟩

/-! ## The end of a reset -/

theorem afterPin_head (s : State) (straps : Straps) (i : LocalHead) :
    (s.afterPin straps).head i = (s.head i).afterPin :=
  PerHead.get_map s.heads Head.afterPin i

theorem afterPin_learned (s : State) (straps : Straps) (i : LocalHead) :
    (s.afterPin straps).learned i = (s.learned i).afterPin :=
  PerHead.get_map s.vu.slots VerdictSlot.afterPin i

theorem afterPin_blocksFresh (s : State) (straps : Straps) : (s.afterPin straps).blocksFresh s.now :=
  blocksFresh_of_atReset (age := s.lbi.nextAge) rfl rfl rfl rfl rfl rfl rfl (fun i => ⟨_, afterPin_head s straps i⟩)
    fun i => ⟨_, afterPin_learned s straps i⟩

theorem atPowerOn_head (now : Nat) (straps : Straps) (i : LocalHead) :
    (State.atPowerOn now straps).head i = .atPowerOn :=
  PerHead.get_all _ i

theorem atPowerOn_learned (now : Nat) (straps : Straps) (i : LocalHead) :
    (State.atPowerOn now straps).learned i = .atPowerOn :=
  PerHead.get_all _ i

theorem atPowerOn_blocksFresh (now : Nat) (straps : Straps) : (State.atPowerOn now straps).blocksFresh now :=
  blocksFresh_of_atReset (age := 0) rfl rfl rfl rfl rfl rfl rfl (fun i => ⟨.atPowerOn, atPowerOn_head now straps i⟩)
    fun i => ⟨.atPowerOn, atPowerOn_learned now straps i⟩

/-- A station after POWER_ON has learned and counted nothing (R13, R125, R170). -/
theorem atPowerOn_forgets (now : Nat) (straps : Straps) (i : LocalHead) :
    (State.atPowerOn now straps).headCounters.get i = .zero ∧ ((State.atPowerOn now straps).head i).bench = none
      ∧ ((State.atPowerOn now straps).learned i).trim = 0 ∧ ((State.atPowerOn now straps).learned i).duds = 0 := by
  rw [atPowerOn_head, atPowerOn_learned]
  exact ⟨PerHead.get_all _ i, rfl, rfl, rfl⟩

/-- A station comes out of a reset by the pin with what it has learned and counted (R13, R125, R170). -/
theorem afterPin_keeps (s : State) (straps : Straps) (i : LocalHead) :
    (s.afterPin straps).headCounters.get i = s.headCounters.get i
      ∧ ((s.afterPin straps).head i).bench = (s.head i).bench
      ∧ ((s.afterPin straps).learned i).trim = (s.learned i).trim
      ∧ ((s.afterPin straps).learned i).duds = (s.learned i).duds := by
  rw [afterPin_head, afterPin_learned]
  exact ⟨rfl, rfl, rfl, rfl⟩

theorem resetEnd_pin {s : State} (hr : s.sc.inReset = true) (hs : s.sc.supplyLow = false) (straps : Straps) :
    s.resetEnd straps = s.afterPin straps := by
  simp [State.resetEnd, hr, hs]

theorem resetEnd_powerOn {s : State} (hr : s.sc.inReset = true) (hs : s.sc.supplyLow = true) (straps : Straps) :
    s.resetEnd straps = { State.atPowerOn s.now straps with pending := s.pending } := by
  simp [State.resetEnd, hr, hs]

theorem exec_resetEnd {s t : State} {dt : Nat} (ht : s.elapse dt = t) (addr : Address) (hcPins : BitVec 2)
    (fh : BitVec 6) : exec (.resetEnd dt addr hcPins fh) s
      = .next (t.resetEnd { addr := addr, hcPins := hcPins, fhPins := fh }) := by
  subst ht
  rfl

/-- Settles O5: the end of a reset by the cause that the supply left, and the state right after POWER_ON at time 0. -/
theorem resetEndSetsEveryRegister : Obligations.ResetEndSetsEveryRegister := by
  refine ⟨fun s t dt addr hcPins fh ht hr hs => ?pin, fun s t dt addr hcPins fh ht hr hs => ?powerOn,
    atPowerOn_blocksFresh 0 _, controlFresh_of_atReset (straps := ⟨0, 0, 0⟩) rfl, rfl, rfl, rfl,
    atPowerOn_forgets 0 _⟩
  case pin =>
    rw [exec_resetEnd ht, resetEnd_pin hr hs]
    exact ⟨_, rfl, afterPin_blocksFresh t _, controlFresh_of_atReset (straps := ⟨addr, hcPins, fh⟩) rfl, rfl, rfl,
      afterPin_keeps t _⟩
  case powerOn =>
    rw [exec_resetEnd ht, resetEnd_powerOn hr hs]
    exact ⟨_, rfl, atPowerOn_blocksFresh t.now ⟨addr, hcPins, fh⟩,
      controlFresh_of_atReset (straps := ⟨addr, hcPins, fh⟩) rfl, rfl, rfl, rfl,
      atPowerOn_forgets t.now ⟨addr, hcPins, fh⟩⟩

end Sys2Proof.Machine
end

section
/-!
The join as a whole: what leaving JOINING leaves of every block, and the end of the join window (O43).
-/
namespace Sys2Proof.Machine

/-! ## The conditions of the join -/

theorem joinConditions_iff (s : State) : s.joinConditions = true ↔ s.mayJoin := by
  simp [State.joinConditions, State.mayJoin, State.windowPassed, State.joined, and_assoc]

theorem tryJoin_of_mayJoin {s : State} (h : s.mayJoin) : s.tryJoin = s.leaveJoining :=
  if_pos ((joinConditions_iff s).2 h)

theorem tryJoin_of_not_mayJoin {s : State} (h : ¬ s.mayJoin) : s.tryJoin = s :=
  if_neg (mt (joinConditions_iff s).1 h)

theorem joinReport_of_same {s t : State} (hr : Piece.resetting.same s t) (hm : Piece.mode.same s t) :
    t.joinReport = s.joinReport := by
  obtain ⟨-, -, hcause, hstraps⟩ := hr
  simp only [Piece.same] at hm
  simp [State.joinReport, State.fh, State.hc, State.joined, hcause, hstraps, hm]

/-! ## The mask and the NOTICE it uncovers -/

/-- The station with a notice mask (R179). -/
def State.withMask (s : State) (m : Word) : State :=
  { s with sc := { s.sc with mask := m } }

/-- A mask uncovers a notice that is latched and was masked before; a NOTICE is asked for where none waits (R179). -/
theorem changeMask_eq (s : State) (m : Word) :
    s.changeMask m = if s.sc.latched &&& s.sc.mask &&& ~~~m ≠ 0 ∧ s.noticeWaits = false
      then (s.withMask m).handIn (.notice none) else s.withMask m := by
  have hasked : s.changeMask m = if s.sc.latched &&& s.sc.mask &&& ~~~m = 0 then s.withMask m
      else if s.noticeWaits = true then s.withMask m else (s.withMask m).handIn (.notice none) := rfl
  rw [hasked]
  by_cases hz : s.sc.latched &&& s.sc.mask &&& ~~~m = 0 <;> cases s.noticeWaits <;> simp [hz]

theorem changeMask_reporting (s : State) (m : Word) : ChangesOnly reporting (s.withMask m) (s.changeMask m) := by
  rw [changeMask_eq]
  exact .ite (fun _ => handIn_reporting _ rfl) fun _ => .refl _ _

theorem changeMask_keepsNotices (s : State) (m : Word) : KeepsNotices s (s.changeMask m) := by
  have hm : KeepsNotices s (s.withMask m) := .of_eq rfl
  rw [changeMask_eq]
  split
  · exact hm.trans (handIn_keepsNotices _ _)
  · exact hm

theorem SameBus.changeMask {s t : State} (h : SameBus s t) (m : Word) : SameBus (s.changeMask m) (t.changeMask m) := by
  have hv : SameBus (s.withMask m) (t.withMask m) := ⟨h.lbi, h.txDrops, h.latched, rfl⟩
  rw [changeMask_eq, changeMask_eq, h.latched, h.mask, h.noticeWaits]
  split
  · exact hv.handIn _
  · exact hv

/-! ## The station as it leaves JOINING -/

/-- The station with its blocks as the join leaves them and the mask of its setup, before it reports (R176). -/
def State.joinedMasked (s : State) : State :=
  s.joinedState.withMask s.setup.mask

/-- Beyond the blocks' values and the mask the join only hands frames in. -/
theorem leaveJoining_reporting (s : State) : ChangesOnly reporting s.joinedMasked s.leaveJoining :=
  (changeMask_reporting s.joinedState s.setup.mask).trans (sendJoin_only _)

theorem leaveJoining_only (s : State) : ChangesOnly joinedPieces s s.leaveJoining :=
  (joinedState_only s).trans (((changeMask_only _ _).comp (sendJoin_only _)).widen (by decide))

theorem leaveJoining_keepsNotices (s : State) : KeepsNotices s s.leaveJoining := by
  have hj : KeepsNotices s s.joinedState := .of_eq rfl
  exact (hj.trans (changeMask_keepsNotices _ _)).trans (handIn_keepsNotices _ _)

/-- A drive link set anew stays so through a change that leaves it and the heads' requests alone. -/
theorem linkFresh_of_only {ps : List Piece} {s u : State} (h : ChangesOnly ps s u) (hs : s.dlc = .atReset)
    (hl : .link ∉ ps) (hd : ∀ i, .slot i ∉ ps) : u.linkFresh := by
  obtain ⟨hcurrent, hslots⟩ := linkFresh_of_atReset hs
  refine ⟨(h.keeps .link hl).trans hcurrent, fun i => ?_⟩
  rw [show u.slot i = s.slot i from h.keeps (.slot i) (hd i)]
  exact hslots i

theorem joinedMasked_learned (s : State) (i : LocalHead) :
    s.joinedMasked.learned i = { s.learned i with trimDue := false, dudDue := false } :=
  PerHead.get_map s.vu.slots _ i

/-- The frames of the join: the NOTICE that the new mask asks for, and the JOIN with JOINED behind it (R171, R179). -/
theorem leaveJoining_queues (s : State) :
    let v : State := {
      s with lbi := { s.lbi with silenceStart := s.now }, sc := { s.sc with mask := s.setup.mask } }
    let uncovers := s.sc.latched &&& s.sc.mask &&& ~~~s.setup.mask ≠ 0
    (if uncovers ∧ s.noticeWaits = false then v.handIn (.notice none) else v).queues
      (.join { first := s.fh, count := s.hc, cause := s.sc.cause, heard := .joined }) s.leaveJoining := by
  have hbus : SameBus { s with lbi := { s.lbi with silenceStart := s.now } } s.joinedState := ⟨rfl, rfl, rfl, rfl⟩
  have hmask := hbus.changeMask s.setup.mask
  rw [changeMask_eq { s with lbi := { s.lbi with silenceStart := s.now } }] at hmask
  have honly := changeMask_only s.joinedState s.setup.mask
  have hreport : (s.joinedState.changeMask s.setup.mask).joinReport = s.joinedState.joinReport :=
    joinReport_of_same (honly.keeps .resetting (by decide)) (honly.keeps .mode (by decide))
  refine hmask.queues ?_
  unfold State.leaveJoining State.sendJoin
  rw [hreport]
  exact .refl _

/-- The station that leaves JOINING stands in STOPPED as R176 says. -/
theorem leaveJoining_entersStopped (s : State) : s.entersStopped s.leaveJoining := by
  have h := leaveJoining_reporting s
  have hvu : s.leaveJoining.vu = s.joinedMasked.vu :=
    vu_of_only h (by decide) (by decide) (by simp [reporting])
  obtain ⟨htimer, hwindow⟩ := h.keeps .joining (by decide)
  refine ⟨h.keeps .mode (by decide), hwindow, htimer, h.keeps .mask (by decide),
    turretFresh_of_atReset (h.keeps .ttu (by decide)), h.keeps .records (by decide),
    steamFresh_of_atReset (sdu_of_only h (by decide)), linkFresh_of_only h rfl (by decide) (by simp [reporting]),
    congrArg Vu.awaiting hvu, congrArg Vu.noVerdictRun hvu, fun i => ?_, h.keeps .silence (by decide),
    leaveJoining_queues s, leaveJoining_only s⟩
  exact (h.keeps (.learned i) (by simp [reporting])).trans (joinedMasked_learned s i)

/-! ## The end of the join window -/

section
variable {s : State} {w : Nat}

theorem joinWindowPass_early (hw : s.sc.window = .running w) (h : s.now < w) : s.joinWindowPass = s :=
  if_neg (by simp [State.windowDue, hw, h])

theorem joinWindowPass_due (hw : s.sc.window = .running w) (h : w ≤ s.now) :
    s.joinWindowPass = ({ s with sc := { s.sc with window := .passed } } : State).tryJoin :=
  if_pos (by simp [State.windowDue, hw, h])

end

/-- Settles O43: the window before its time, and at its time the test of the join. -/
theorem joinWindowPassLeavesJoining : Obligations.JoinWindowPassLeavesJoining := by
  intro s t dt w ht hl hw passed
  have hx : exec (.joinWindowPass dt) s = .next t.joinWindowPass := exec_live (c := .joinWindowPass dt) rfl ht hl
  rw [hx]
  refine ⟨fun h => ?early, fun h hj => ?stays, fun h hj => ?joins⟩
  case early => rw [joinWindowPass_early hw h]
  case stays => rw [joinWindowPass_due hw h, tryJoin_of_not_mayJoin hj]
  case joins =>
    refine ⟨_, rfl, ?_⟩
    rw [joinWindowPass_due hw h, tryJoin_of_mayJoin hj]
    exact leaveJoining_entersStopped passed

end Sys2Proof.Machine
end

section
/-!
The station's own JOIN frames: the first idle, the JOIN timer, and the echo that starts the join window (O42).
-/
namespace Sys2Proof.Machine

section
variable {s : State}

/-! ## The JOIN timer -/

theorem sendJoin_joining (h : s.joined = false) : s.sendJoin =
    s.handIn (.join { first := s.fh, count := s.hc, cause := s.sc.cause, heard := .joining }) := by
  simp [State.sendJoin, State.joinReport, h]

/-- The station with its JOIN timer running from a moment on (R171). -/
def State.withJoinTimerFrom (s : State) (now : Nat) : State :=
  { s with sc := { s.sc with joinTimer := some (now + 100000) } }

/-- In JOINING the JOIN is handed in and its timer starts anew (R171). -/
theorem sendTimedJoin_eq (h : s.joined = false) : s.sendTimedJoin =
    (s.handIn (.join { first := s.fh, count := s.hc, cause := s.sc.cause, heard := .joining })).withJoinTimerFrom
      s.now := by
  have hnow : s.sendJoin.now = s.now := (sendJoin_only s).keeps .now (by decide)
  have htimed : s.sendTimedJoin = s.sendJoin.withJoinTimerFrom s.sendJoin.now := rfl
  rw [htimed, hnow, sendJoin_joining h]

theorem joinTimerDue_iff : s.joinTimerDue = true ↔ s.joined = false ∧ ∃ w ∈ s.sc.joinTimer, w ≤ s.now := by
  unfold State.joinTimerDue
  cases s.sc.joinTimer <;> simp

theorem joinTimer_due (h : s.joined = false) (hw : ∃ w ∈ s.sc.joinTimer, w ≤ s.now) :
    s.joinTimer = s.sendTimedJoin :=
  if_pos (joinTimerDue_iff.2 ⟨h, hw⟩)

theorem joinTimer_notDue (h : s.joined = true ∨ ∀ w ∈ s.sc.joinTimer, s.now < w) : s.joinTimer = s := by
  refine if_neg fun hd => ?_
  obtain ⟨hj, w, hw, hle⟩ := joinTimerDue_iff.1 hd
  rcases h with h | h
  · simp [h] at hj
  · exact absurd (h w hw) (by omega)

/-! ## The first idle -/

theorem busIdleSeen_first (h : s.lbi.receive = .waitingIdle) : s.busIdleSeen =
    let seen : State := { s with lbi := { s.lbi with receive := .idle } }
    if s.joined then seen else seen.sendTimedJoin :=
  if_pos h

theorem busIdleSeen_later (h : s.lbi.receive ≠ .waitingIdle) : s.busIdleSeen = s :=
  if_neg h

/-! ## The echo -/

theorem reads_iff : s.reads = true ↔ s.sc.inReset = false ∧ s.lbi.receive ≠ .waitingIdle := by
  simp [State.reads]

/-- The first echo in JOINING starts the join window, with the frame in flight completed (R161, R171). -/
theorem joinEcho_completed : s.completed.joinEcho = if s.sc.window = .notStarted ∧ s.joined = false
    then { s.completed with sc := { s.sc with window := .running (s.now + 1000000) } } else s.completed :=
  rfl

theorem receiveJoinEcho_join {f : InFlight} (hr : s.reads = true) (hf : f ∈ s.lbi.inFlight)
    (hk : f.entry.frame.kind = .join) : s.receiveJoinEcho = s.completed.joinEcho := by
  unfold State.receiveJoinEcho
  rw [hf]
  exact if_pos (by simp [hr, hk])

theorem receiveJoinEcho_noJoin (h : ∀ f ∈ s.lbi.inFlight, f.entry.frame.kind ≠ .join) : s.receiveJoinEcho = s := by
  unfold State.receiveJoinEcho
  split
  · next f hf => exact if_neg (by simp [h f hf])
  · rfl

end

/-- Settles O42: the first idle, the JOIN timer, and the echo by either of its rows. -/
theorem ownJoinsAndTheJoinWindow : Obligations.OwnJoinsAndTheJoinWindow := by
  intro s t dt ht hl seen timed echoed
  have hidle : exec (.busIdleSeen dt) s = .next t.busIdleSeen := exec_live (c := .busIdleSeen dt) rfl ht hl
  have htimer : exec (.joinTimer dt) s = .next t.joinTimer := exec_live (c := .joinTimer dt) rfl ht hl
  have hecho : exec (.joinEcho dt) s = .next t.receiveJoinEcho := exec_live (c := .joinEcho dt) rfl ht hl
  have hechoed : t.completed.joinEcho = echoed := joinEcho_completed
  rw [hidle, htimer, hecho]
  refine ⟨fun hw => ?first, fun hw => ?later, fun hj hd => ?due, fun h => ?notDue, fun hw f hf hk => ?ownEcho,
    fun p he => ?equalJoin, fun h => ?noEcho⟩
  case first =>
    rw [busIdleSeen_first hw]
    cases hj : t.joined with
    | true => rfl
    | false => exact congrArg Host.Outcome.next (sendTimedJoin_eq (s := seen) hj)
  case later => rw [busIdleSeen_later hw]
  case due =>
    rw [joinTimer_due hj hd]
    exact congrArg Host.Outcome.next (sendTimedJoin_eq hj)
  case notDue => rw [joinTimer_notDue h]
  case ownEcho => rw [receiveJoinEcho_join (reads_iff.2 ⟨hl, hw⟩) hf hk, hechoed]
  case equalJoin =>
    subst ht
    exact congrArg Host.Outcome.next ((whenLive_receiveOr_echoed _ _ he).trans hechoed)
  case noEcho =>
    rcases h with hw | hf
    · rw [receiveJoinEcho_unread (by simp [State.reads, hw])]
    · rw [receiveJoinEcho_noJoin hf]

end Sys2Proof.Machine
end

section
/-!
JOIN frames of other stations: the entry they leave in the roster, the conflict and the answer, and the join that the end
of a conflict brings (O41).
-/
namespace Sys2Proof.Machine

/-! ## The entry written -/

theorem find?_writeRoster_same (e : RosterEntry) (l : List RosterEntry) :
    (writeRoster e l).find? (fun x => x.addr == e.addr) = some e := by
  induction l with
  | nil => simp [writeRoster]
  | cons x xs ih => by_cases hx : x.addr = e.addr <;> simp [writeRoster, hx, ih]

theorem find?_writeRoster_other {e : RosterEntry} {a : Address} (h : a ≠ e.addr) (l : List RosterEntry) :
    (writeRoster e l).find? (fun x => x.addr == a) = l.find? fun x => x.addr == a := by
  have he : (e.addr == a) = false := by simpa using h.symm
  induction l with
  | nil => simp [writeRoster, he]
  | cons x xs ih =>
    by_cases hx : x.addr = e.addr
    · simp [writeRoster, hx, he]
    · simp [writeRoster, hx, List.find?_cons, ih]

theorem mem_writeRoster (e : RosterEntry) (l : List RosterEntry) : e ∈ writeRoster e l :=
  List.mem_of_find?_eq_some (find?_writeRoster_same e l)

/-- The station with an entry written to its roster (R172). -/
def State.withEntry (s : State) (e : RosterEntry) : State :=
  { s with sc := { s.sc with roster := writeRoster e s.sc.roster } }

theorem withEntry_only (s : State) (e : RosterEntry) : ChangesOnly [.roster] s (s.withEntry e) :=
  setRoster_only s _

theorem withEntry_conflict {s : State} {e : RosterEntry} (h : s.overlaps e = true) :
    (s.withEntry e).headMapConflict = true :=
  List.any_eq_true.2 ⟨e, mem_writeRoster e _, h⟩

/-- Another station's entry is tested by its role and its heads alone (R175). -/
theorem overlaps_other {s : State} {e : RosterEntry} (h : e.addr ≠ s.addr) :
    s.overlaps e = (e.role == .capper && decide (0 < e.count) && decide (e.first < s.fh + s.hc)
      && decide (s.fh < e.first + e.count)) := by
  simp [State.overlaps, h, Bool.and_assoc]

/-! ## Which JOIN frames are taken -/

theorem joinUsable_iff {p : BitVec 24} {r : Role} (hr : joinRole p = some r) : joinUsable p = true ↔
    (r = .capper → 1 ≤ joinCount p ∧ joinCount p ≤ 4 ∧ joinFirst p + joinCount p ≤ 64) := by
  unfold joinUsable
  rw [hr]
  cases r <;> simp

section
variable {s : State} {src : Address} {p : BitVec 24} {r : Role}

theorem takeJoin_unheard (h : src = s.addr ∨ joinRole p = none) : s.takeJoin src p = s := by
  unfold State.takeJoin
  rcases h with h | h
  · exact if_pos h
  · simp [h]

theorem takeJoin_unfit (hr : joinRole p = some r)
    (h : ¬ (r = .capper → 1 ≤ joinCount p ∧ joinCount p ≤ 4 ∧ joinFirst p + joinCount p ≤ 64)) :
    s.takeJoin src p = s := by
  have hu : ¬ joinUsable p = true := mt (joinUsable_iff hr).1 h
  simp [State.takeJoin, hr, hu]

theorem takeJoin_fit (hs : src ≠ s.addr) (hr : joinRole p = some r)
    (h : r = .capper → 1 ≤ joinCount p ∧ joinCount p ≤ 4 ∧ joinFirst p + joinCount p ≤ 64) :
    s.takeJoin src p = s.enterRoster src r p := by
  simp [State.takeJoin, hs, hr, (joinUsable_iff hr).2 h]

/-! ## The conflict, the answer and the join -/

theorem answersJoin_iff : s.answersJoin src p = true ↔ s.joined = true ∧ (s.rosterEntry src = none
    ∨ joinHeard p = .joining ∧ (s.rosterEntry src).map (·.heard) = some .joined) := by
  unfold State.answersJoin
  cases s.rosterEntry src <;> simp

/-- Where only the roster and the bus side have changed, the answer is the JOIN of the station as it stood (R171). -/
theorem sendJoin_answer {u : State} (h : ChangesOnly (.roster :: reporting) s u) (hj : s.joined = true) :
    u.sendJoin = u.handIn (.join { first := s.fh, count := s.hc, cause := s.sc.cause, heard := .joined }) := by
  have hreport : s.joinReport = { first := s.fh, count := s.hc, cause := s.sc.cause, heard := .joined } := by
    simp [State.joinReport, hj]
  unfold State.sendJoin
  rw [joinReport_of_same (h.keeps .resetting (by decide)) (h.keeps .mode (by decide)), hreport]

theorem enterRoster_eq : s.enterRoster src r p =
    let e := s.heardEntry src r p
    let w := s.withEntry e
    let u := if s.overlaps e = true then w.latch .headMapConflict else w
    let v := if s.answersJoin src p = true then u.sendJoin else u
    if (s.headMapConflict && !w.headMapConflict) = true then v.tryJoin else v :=
  rfl

/-- A JOIN that overlaps latches the conflict and is answered like any other (R172, R175). -/
theorem enterRoster_overlapping (h : s.overlaps (s.heardEntry src r p) = true) : s.enterRoster src r p =
    let w := (s.withEntry (s.heardEntry src r p)).latch .headMapConflict
    if s.answersJoin src p = true then w.sendJoin else w := by
  simp [enterRoster_eq, h, withEntry_conflict h]

/-- A JOIN that does not overlap and is answered changes nothing else: the station has joined (R172). -/
theorem enterRoster_answered (h : s.overlaps (s.heardEntry src r p) = false) (ha : s.answersJoin src p = true) :
    s.enterRoster src r p = (s.withEntry (s.heardEntry src r p)).sendJoin := by
  have hmode : Piece.mode.same s (s.withEntry (s.heardEntry src r p)).sendJoin :=
    ((withEntry_only s _).comp (sendJoin_only _)).keeps .mode (by decide)
  have hjoined : (s.withEntry (s.heardEntry src r p)).sendJoin.joined = true := by
    unfold State.joined
    rw [show _ = s.sc.mode from hmode]
    exact (answersJoin_iff.1 ha).1
  have hstays := tryJoin_of_not_mayJoin (s := (s.withEntry (s.heardEntry src r p)).sendJoin)
    fun hm => by simp [hm.1] at hjoined
  simp [enterRoster_eq, h, ha, hstays]

/-- A JOIN that neither overlaps nor is answered brings the join where it ends the conflict (R176). -/
theorem enterRoster_quiet (h : s.overlaps (s.heardEntry src r p) = false) (ha : ¬ s.answersJoin src p = true) :
    s.enterRoster src r p =
      let w := s.withEntry (s.heardEntry src r p)
      if (s.headMapConflict && !w.headMapConflict) = true then w.tryJoin else w := by
  simp [enterRoster_eq, h, ha]

/-- Once the entry is written the roster stands. -/
theorem enterRoster_after : ChangesOnly joinPieces (s.withEntry (s.heardEntry src r p)) (s.enterRoster src r p) := by
  have hlatch : ∀ (c : Prop) [Decidable c] (u : State), ChangesOnly joinPieces u
      (if c then u.latch .headMapConflict else u) := fun c _ u =>
    .ite (fun _ => (latch_only u _).widen (by decide)) fun _ => .refl _ _
  have hanswer : ∀ (c : Prop) [Decidable c] (u : State), ChangesOnly joinPieces u (if c then u.sendJoin else u) :=
    fun c _ u => .ite (fun _ => (sendJoin_only u).widen (by decide)) fun _ => .refl _ _
  have hjoin : ∀ (c : Prop) [Decidable c] (u : State), ChangesOnly joinPieces u (if c then u.tryJoin else u) :=
    fun c _ u => .ite (fun _ => tryJoin_only u) fun _ => .refl _ _
  rw [enterRoster_eq]
  exact ((hlatch _ _).trans (hanswer _ _)).trans (hjoin _ _)

end

theorem exec_join {s t : State} {dt : Nat} {src : Address} {p : BitVec 24} (ht : s.heard dt src = t)
    (hh : s.hears dt src .join (bytesOf 3 p.toNat)) : exec (.join dt src p) s = .next (t.takeJoin src p) := by
  subst ht
  exact congrArg Host.Outcome.next (whenLive_receiveOr_heard _ _ hh)

/-- Settles O41: which JOIN frames are taken, and for one that is, the four outcomes of its entry. -/
theorem joinBuildsTheRoster : Obligations.JoinBuildsTheRoster := by
  intro s t dt src p ht hh old overlapping fits
  rw [exec_join ht hh]
  refine ⟨fun h => by rw [takeJoin_unheard h], fun r hr => ⟨fun h => by rw [takeJoin_unfit hr h], fun hs hf => ?_⟩⟩
  intro e answers answer
  have hover : t.overlaps (t.heardEntry src r p) = overlapping e := overlaps_other (e := e) hs
  have hansw : t.answersJoin src p = true ↔ answers := answersJoin_iff
  have hentry := withEntry_only t e
  have hafter : ChangesOnly joinPieces (t.withEntry e) (t.enterRoster src r p) := enterRoster_after
  have hlatched : ChangesOnly (.roster :: reporting) t ((t.withEntry e).latch .headMapConflict) :=
    hentry.comp (latch_only _ _)
  rw [takeJoin_fit hs hr hf]
  refine ⟨t.withEntry e, _, rfl, find?_writeRoster_same e _, fun a ha => find?_writeRoster_other ha _, hentry,
    hafter.keeps .roster (by decide), fun ho => ?overlaps, fun ho ha => ?answered, fun ho ha hn => ?stays,
    fun ho hc hm => ?joins⟩
  case overlaps =>
    have hu : t.enterRoster src r p = if answers then ((t.withEntry e).latch .headMapConflict).handIn answer
        else (t.withEntry e).latch .headMapConflict := by
      rw [enterRoster_overlapping (hover.trans ho)]
      by_cases ha : answers
      · exact (if_pos (hansw.2 ha)).trans ((sendJoin_answer hlatched ha.1).trans (if_pos ha).symm)
      · exact (if_neg (mt hansw.1 ha)).trans (if_neg ha).symm
    have hn := latch_has (t.withEntry e) .headMapConflict
    refine ⟨withEntry_conflict (hover.trans ho), ?_, hu⟩
    rw [hu]
    split
    · exact handIn_keepsNotices _ _ _ hn
    · exact hn
  case answered =>
    rw [enterRoster_answered (hover.trans ho) (hansw.2 ha)]
    exact sendJoin_answer (hentry.mono (by simp)) ha.1
  case stays =>
    rw [enterRoster_quiet (hover.trans ho) (mt hansw.1 ha)]
    refine ite_eq_right_iff.2 fun hend => tryJoin_of_not_mayJoin fun hm => hn ⟨?_, hm⟩
    exact (Bool.and_eq_true_iff.1 hend).1
  case joins =>
    obtain ⟨hjoining, -, -, -, -, hclear⟩ := id hm
    have ha : ¬ answers := fun ha => Bool.noConfusion (ha.1.symm.trans hjoining)
    have hend : (t.headMapConflict && !(t.withEntry e).headMapConflict) = true := by simp [hc, hclear]
    have hu : t.enterRoster src r p = (t.withEntry e).leaveJoining :=
      (enterRoster_quiet (hover.trans ho) (mt hansw.1 ha)).trans ((if_pos hend).trans (tryJoin_of_mayJoin hm))
    rw [hu]
    exact leaveJoining_entersStopped _

end Sys2Proof.Machine
end

section
/-!
SETUP and PROFILE: the status of a set by its parts and fields, and the frames that bring a part (O44).
-/
namespace Sys2Proof.Machine

/-! ## The fields of a setup -/

/-- Every field of a setup lies in its range (10, section 10.3). -/
def Setup.inRange (u : Setup) : Prop :=
  (8 ≤ u.P ∧ u.P ≤ 64) ∧ (128 ≤ u.E ∧ u.E ≤ 65535) ∧ u.O ≤ 63 ∧ (1 ≤ u.C ∧ u.C ≤ 255) ∧ u.Hq ≤ 65535
    ∧ (1 ≤ u.aC ∧ u.aC ≤ 65535) ∧ (1 ≤ u.aFs ∧ u.aFs ≤ 65535) ∧ (1 ≤ u.aS ∧ u.aS ≤ 65535)
    ∧ (1 ≤ u.aT ∧ u.aT ≤ 65535) ∧ (1 ≤ u.aR ∧ u.aR ≤ 65535) ∧ (1 ≤ u.Lmax ∧ u.Lmax ≤ 63)
    ∧ (1 ≤ u.Tcold ∧ u.Tcold ≤ 65535) ∧ (1 ≤ u.Lv ∧ u.Lv ≤ 65535)

/-- The fields of a setup fit one another and the heads of a station (R173). -/
def Setup.fits (u : Setup) (fh hc : Nat) : Prop :=
  u.E % u.P = 0 ∧ 16 ≤ u.E / u.P
    ∧ (0 < u.aC ∧ u.aC < u.aFs ∧ u.aFs < u.aS ∧ u.aS < u.aT ∧ u.aT < u.aR ∧ u.aR < u.E)
    ∧ u.O + 1 ≤ u.P ∧ u.Lmax + 1 ≤ u.P ∧ fh + hc ≤ u.P

theorem Setup.valid_iff (u : Setup) (fh hc : Nat) : u.valid fh hc = true ↔ u.inRange ∧ u.fits fh hc := by
  simp only [Setup.valid, Setup.inRange, Setup.fits, Bool.and_eq_true, decide_eq_true_eq]
  omega

/-! ## The fields of a profile -/

/-- Every field of a profile lies in its range (10, section 10.3). -/
def Profile.inRange (u : Profile) : Prop :=
  (1 ≤ u.Vb ∧ u.Vb ≤ 10000) ∧ (1000 ≤ u.rho ∧ u.rho ≤ 2000) ∧ u.Tref ≤ 1200 ∧ (1 ≤ u.f ∧ u.f ≤ 4)
    ∧ u.B ≤ 400 ∧ (1 ≤ u.Dmin ∧ u.Dmin ≤ 1000) ∧ (1 ≤ u.Dmax ∧ u.Dmax ≤ 1000) ∧ u.Kh ≤ 255
    ∧ u.Kt ≤ 255 ∧ u.Pext ≤ 300 ∧ u.Tt ≤ 1000 ∧ u.Tmin ≤ 1000
    ∧ u.Tmax ≤ 1000 ∧ u.thetaMin ≤ 720 ∧ (1 ≤ u.speed ∧ u.speed ≤ 600) ∧ u.G ≤ 255
    ∧ u.target ≤ 4000 ∧ u.stepMax ≤ 200 ∧ u.Nb ≤ 15

/-- The fields of a profile fit one another (R174). -/
def Profile.fits (u : Profile) : Prop :=
  u.Dmin ≤ u.Dmax ∧ u.Tmin ≤ u.Tt ∧ u.Tt ≤ u.Tmax

theorem Profile.valid_iff (u : Profile) : u.valid = true ↔ u.inRange ∧ u.fits := by
  simp only [Profile.valid, Profile.inRange, Profile.fits, Bool.and_eq_true, decide_eq_true_eq]
  tauto

/-! ## The status of a set -/

section
variable {s : State}

theorem setupStatus_incomplete {b : SetupParts} (hb : s.sc.setupParts = b)
    (h : b.s0 = none ∨ b.s1 = none ∨ b.s2 = none ∨ b.s3 = none) : s.setupStatus = .incomplete := by
  have hw : b.whole = none := by
    unfold SetupParts.whole
    split
    · simp_all
    · rfl
  unfold State.setupStatus
  rw [hb, hw]

theorem setupStatus_whole {u : Setup} (h : s.sc.setupParts.whole = some u) :
    (u.inRange ∧ u.fits s.fh s.hc → s.setupStatus = .valid)
      ∧ (¬ (u.inRange ∧ u.fits s.fh s.hc) → s.setupStatus = .invalid) := by
  unfold State.setupStatus
  rw [h, ← Setup.valid_iff]
  exact ⟨fun hv => if_pos hv, fun hv => if_neg hv⟩

theorem profileStatus_incomplete {k : ProfileIndex} {b : ProfileParts} (hb : s.sc.profiles.get k = b)
    (h : b.p0 = none ∨ b.p1 = none ∨ b.p2 = none ∨ b.p3 = none ∨ b.p4 = none) :
    s.profileStatus k = .incomplete := by
  have hw : b.whole = none := by
    unfold ProfileParts.whole
    split
    · simp_all
    · rfl
  unfold State.profileStatus ProfileParts.status
  rw [hb, hw]

theorem profileStatus_whole {k : ProfileIndex} {u : Profile} (h : (s.sc.profiles.get k).whole = some u) :
    (u.inRange ∧ u.fits → s.profileStatus k = .valid) ∧ (¬ (u.inRange ∧ u.fits) → s.profileStatus k = .invalid) := by
  unfold State.profileStatus ProfileParts.status
  rw [h, ← Profile.valid_iff]
  exact ⟨fun hv => if_pos hv, fun hv => if_neg hv⟩

end

/-! ## A part held -/

/-- The setup parts with the part that a frame bears in place of any earlier copy (R173). -/
def SetupParts.holding (b : SetupParts) (p : BitVec 64) : SetupParts :=
  { s0 := if setupPart p = 0 then some (setupS0 p) else b.s0,
    s1 := if setupPart p = 1 then some (setupS1 p) else b.s1,
    s2 := if setupPart p = 2 then some (setupS2 p) else b.s2,
    s3 := if setupPart p = 3 then some (setupS3 p) else b.s3 }

theorem SetupParts.store_known (b : SetupParts) {p : BitVec 64} (h : setupPart p ≤ 3) :
    b.store p = some (b.holding p) := by
  have hk : setupPart p = 0 ∨ setupPart p = 1 ∨ setupPart p = 2 ∨ setupPart p = 3 := by omega
  rcases hk with hk | hk | hk | hk <;> simp [SetupParts.store, SetupParts.holding, hk]

theorem SetupParts.store_unknown (b : SetupParts) {p : BitVec 64} (h : 3 < setupPart p) : b.store p = none := by
  obtain ⟨n, hn⟩ := Nat.exists_eq_add_of_le h
  simp [SetupParts.store, hn, Nat.add_comm]

/-- The parts of a profile with the part that a frame bears in place of any earlier copy (R174). -/
def ProfileParts.holding (b : ProfileParts) (p : BitVec 64) : ProfileParts :=
  { p0 := if profilePart p = 0 then some (profileP0 p) else b.p0,
    p1 := if profilePart p = 1 then some (profileP1 p) else b.p1,
    p2 := if profilePart p = 2 then some (profileP2 p) else b.p2,
    p3 := if profilePart p = 3 then some (profileP3 p) else b.p3,
    p4 := if profilePart p = 4 then some (profileP4 p) else b.p4 }

theorem ProfileParts.store_known (b : ProfileParts) {p : BitVec 64} (h : profilePart p ≤ 4) :
    b.store p = some (b.holding p) := by
  have hk : profilePart p = 0 ∨ profilePart p = 1 ∨ profilePart p = 2 ∨ profilePart p = 3 ∨ profilePart p = 4 := by
    omega
  rcases hk with hk | hk | hk | hk | hk <;> simp [ProfileParts.store, ProfileParts.holding, hk]

theorem ProfileParts.store_unknown (b : ProfileParts) {p : BitVec 64} (h : 4 < profilePart p) : b.store p = none := by
  obtain ⟨n, hn⟩ := Nat.exists_eq_add_of_le h
  simp [ProfileParts.store, hn, Nat.add_comm]

/-! ## The check and the join behind it -/

/-- A setup's status is read off its parts and the straps (R173). -/
theorem setupStatus_of_same {s u : State} (hp : Piece.setupParts.same s u) (hr : Piece.resetting.same s u) :
    u.setupStatus = s.setupStatus := by
  obtain ⟨-, -, -, hstraps⟩ := hr
  unfold State.setupStatus State.fh State.hc
  rw [hstraps, show u.sc.setupParts = s.sc.setupParts from hp]

/-- A head-map conflict is read off the roster and the straps (R175). -/
theorem headMapConflict_of_same {s u : State} (hr : Piece.roster.same s u) (hs : Piece.resetting.same s u) :
    u.headMapConflict = s.headMapConflict := by
  obtain ⟨-, -, -, hstraps⟩ := hs
  unfold State.headMapConflict State.overlaps State.addr State.fh State.hc
  rw [hstraps, show u.sc.roster = s.sc.roster from hr]

/-- The conditions of the join are not on the bus side (R176). -/
theorem mayJoin_of_reporting {s u : State} (h : ChangesOnly reporting s u) : u.mayJoin ↔ s.mayJoin := by
  have hreset := h.keeps .resetting (by decide)
  have hmode : u.sc.mode = s.sc.mode := h.keeps .mode (by decide)
  have hprofiles : u.sc.profiles = s.sc.profiles := h.keeps .profiles (by decide)
  have haddress : u.sc.addressConflict = s.sc.addressConflict := h.keeps .addressConflict (by decide)
  obtain ⟨-, hwindow⟩ := h.keeps .joining (by decide)
  unfold State.mayJoin State.joined State.profileStatus
  rw [hmode, hwindow, hprofiles, haddress, setupStatus_of_same (h.keeps .setupParts (by decide)) hreset,
    headMapConflict_of_same (h.keeps .roster (by decide)) hreset]

theorem tryJoin_keepsNotices (s : State) : KeepsNotices s s.tryJoin := by
  unfold State.tryJoin
  split
  · exact leaveJoining_keepsNotices s
  · exact .of_eq rfl

section
variable {v : State} {c : ConfigStatus}

/-- Without the conditions of the join a check only latches what it has found. -/
theorem tryJoin_latchInvalid_stays (h : ¬ v.mayJoin) : (v.latchInvalid c).tryJoin = v.latchInvalid c :=
  tryJoin_of_not_mayJoin (mt (mayJoin_of_reporting (latchInvalid_only v c)).1 h)

/-- With them the station joins behind the check (R176). -/
theorem tryJoin_latchInvalid_joins (h : v.mayJoin) : (v.latchInvalid c).entersStopped (v.latchInvalid c).tryJoin := by
  rw [tryJoin_of_mayJoin ((mayJoin_of_reporting (latchInvalid_only v c)).2 h)]
  exact leaveJoining_entersStopped _

theorem tryJoin_latchInvalid_only : ChangesOnly joinPieces v (v.latchInvalid c).tryJoin :=
  ((latchInvalid_only v c).comp (tryJoin_only _)).widen (by decide)

theorem latchInvalid_invalid (h : c = .invalid) : v.latchInvalid c = v.latch .configInvalid :=
  if_pos h

theorem latchInvalid_other (h : c ≠ .invalid) : v.latchInvalid c = v :=
  if_neg h

end

/-! ## The frames -/

section
variable {s t : State} {dt : Nat} {src : Address} {p : BitVec 64}

theorem takeSetup_notPanel (h : s.roleOf src ≠ some .panel) : s.takeSetup src p = s :=
  if_pos h

theorem takeProfile_notPanel (h : s.roleOf src ≠ some .panel) : s.takeProfile src p = s :=
  if_pos h

section
variable (hpanel : s.roleOf src = some .panel)
include hpanel

theorem takeSetup_late (hj : s.joined = true) : s.takeSetup src p = s.latch .lateConfig := by
  simp [State.takeSetup, hpanel, hj]

theorem takeProfile_late (hj : s.joined = true) : s.takeProfile src p = s.latch .lateConfig := by
  simp [State.takeProfile, hpanel, hj]

variable (hj : s.joined = false)
include hj

theorem takeSetup_unknown (h : 3 < setupPart p) : s.takeSetup src p = s := by
  simp [State.takeSetup, hpanel, hj, SetupParts.store_unknown _ h]

theorem takeSetup_known (h : setupPart p ≤ 3) : s.takeSetup src p =
    let v : State := { s with sc := { s.sc with setupParts := s.sc.setupParts.holding p } }
    (v.latchInvalid v.setupStatus).tryJoin := by
  simp [State.takeSetup, hpanel, hj, SetupParts.store_known _ h]

theorem takeProfile_unknown (h : 7 < profileNumber p ∨ 4 < profilePart p) : s.takeProfile src p = s := by
  rcases h with h | h
  · simp [State.takeProfile, hpanel, hj, Nat.succ_le_of_lt h]
  · simp [State.takeProfile, hpanel, hj, ProfileParts.store_unknown _ h]

theorem takeProfile_known (hn : profileNumber p ≤ 7) (h : profilePart p ≤ 4) : s.takeProfile src p =
    let k : ProfileIndex := Fin.ofNat 8 (profileNumber p)
    let v : State := { s with sc := {
      s.sc with profiles := s.sc.profiles.set k ((s.sc.profiles.get k).holding p) } }
    (v.latchInvalid (v.profileStatus k)).tryJoin := by
  simp [State.takeProfile, hpanel, hj, Nat.not_le_of_lt (Nat.lt_succ_of_le hn), ProfileParts.store_known _ h]

end

variable (ht : s.heard dt src = t) (hr : (s.elapse dt).reads = true)
include ht hr

theorem exec_setup : exec (.setup dt src p) s = .next (t.takeSetup src p) :=
  exec_receive (c := .setup dt src p) (owner := fun u => u.takeSetup src p) rfl rfl ht hr

theorem exec_profile : exec (.profile dt src p) s = .next (t.takeProfile src p) :=
  exec_receive (c := .profile dt src p) (owner := fun u => u.takeProfile src p) rfl rfl ht hr

end

/-- Settles O44: the status of a set by its parts and fields, and what each frame leaves by its source, the mode and its
numbers. -/
theorem setupAndProfilePartsAreTakenInJoining : Obligations.SetupAndProfilePartsAreTakenInJoining := by
  refine ⟨fun s => ⟨fun h => setupStatus_incomplete rfl h, fun a ha c hc d hd e he => ?setupWhole⟩,
    fun s k => ⟨fun h => profileStatus_incomplete rfl h, fun a ha c hc d hd e he f hf => ?profileWhole⟩,
    fun s t dt src p ht hr => ?frames⟩
  case setupWhole =>
    refine setupStatus_whole (u := .ofParts a c d e) ?_
    unfold SetupParts.whole
    rw [ha, hc, hd, he]
  case profileWhole =>
    refine profileStatus_whole (u := .ofParts a c d e f) ?_
    unfold ProfileParts.whole
    rw [ha, hc, hd, he, hf]
  case frames =>
    rw [exec_setup ht hr, exec_profile ht hr]
    refine ⟨fun hs => ?_, fun hs hj => ?_, fun hs hj hp => ?_, fun hs hj hp => ?_, fun hs hj hp => ?setup,
      fun hs hj hn hp => ?profile⟩
    · rw [takeSetup_notPanel hs, takeProfile_notPanel hs]
      exact ⟨rfl, rfl⟩
    · rw [takeSetup_late hs hj, takeProfile_late hs hj]
      exact ⟨rfl, rfl, latch_has _ _⟩
    · rw [takeSetup_unknown hs hj hp]
    · rw [takeProfile_unknown hs hj hp]
    case setup =>
      intro b held v
      have hnotYet : v.setupStatus ≠ .valid → ¬ v.mayJoin := fun hx ⟨_, _, hstatus, _⟩ => hx hstatus
      refine ⟨(v.latchInvalid v.setupStatus).tryJoin, congrArg _ (takeSetup_known hs hj hp),
        tryJoin_latchInvalid_only.keeps .setupParts (by decide), fun hx => ?incomplete, fun hx => ?invalid,
        fun hx hm => ?stays, fun hx hm => ?joins⟩
      case incomplete =>
        rw [tryJoin_latchInvalid_stays (hnotYet (by simp [hx])), latchInvalid_other (by simp [hx])]
      case invalid =>
        rw [tryJoin_latchInvalid_stays (hnotYet (by simp [hx])), latchInvalid_invalid hx]
        exact ⟨rfl, latch_has _ _⟩
      case stays => rw [tryJoin_latchInvalid_stays hm, latchInvalid_other (by simp [hx])]
      case joins =>
        have hjoins := tryJoin_latchInvalid_joins (c := v.setupStatus) hm
        rwa [latchInvalid_other (by simp [hx])] at hjoins ⊢
    case profile =>
      intro k b held v w
      refine ⟨(v.latchInvalid (v.profileStatus k)).tryJoin, congrArg _ (takeProfile_known hs hj hn hp),
        tryJoin_latchInvalid_only.keeps .profiles (by decide), fun hx => ?invalid,
        fun hm => tryJoin_latchInvalid_stays hm, fun hm => tryJoin_latchInvalid_joins hm⟩
      case invalid =>
        rw [latchInvalid_invalid hx]
        exact tryJoin_keepsNotices _ _ (latch_has _ _)

end Sys2Proof.Machine
end

section
/-!
COUNTER_REQUEST (O46): the values of a group by its number, and the answer of a request by them.
-/
namespace Sys2Proof.Machine

/-! ## The values of a group -/

section
variable {s : State} {g : Nat}

theorem groupValues_station (h : g < 16) : s.groupValues g = s.counters.group g :=
  if_pos h

/-- A group that lies `k` above a head's first is that head's group `k`. -/
theorem groupValues_head {i : LocalHead} {k : Nat} (hi : s.owns i = true) (hk : k < 4) (hg : g = 16 + 4 * i.val + k) :
    s.groupValues g = headGroup (s.headCounters.get i) (s.learned i) k := by
  have hhead : (g - 16) / 4 = i.val := by omega
  have hplace : (g - 16) % 4 = k := by omega
  have howned : i.val < s.hc := of_decide_eq_true hi
  unfold State.groupValues
  rw [if_neg (by omega), hhead, hplace, if_pos howned, Fin.ofNat_val_eq_self]

theorem counters_group_unknown (c : Counters) (h : 4 < g) : c.group g = none := by
  obtain ⟨n, rfl⟩ := Nat.exists_eq_add_of_le' h
  rfl

theorem groupValues_noStationGroup (h : 4 < g) (hg : g < 16) : s.groupValues g = none :=
  (groupValues_station hg).trans (counters_group_unknown _ h)

theorem groupValues_noHead (h : 16 + 4 * s.hc ≤ g) : s.groupValues g = none := by
  unfold State.groupValues
  rw [if_neg (by omega), if_neg (by omega)]

end

/-! ## The request -/

section
variable {s t : State} {dt : Nat} {src : Address} {p : BitVec 16}

theorem exec_counterRequest (ht : s.heard dt src = t) (hr : (s.elapse dt).reads = true) :
    exec (.counterRequest dt src p) s = .next (t.takeRequest src p) :=
  exec_receive (c := .counterRequest dt src p) (owner := fun u => u.takeRequest src p) rfl rfl ht hr

/-- A request this station takes: from a PANEL after the join, for this station or for all (R181, R182). -/
def State.requestTaken (s : State) (src : Address) (p : BitVec 16) : Prop :=
  s.joined = true ∧ s.roleOf src = some .panel ∧ (requestTarget p = s.addr.toNat ∨ requestTarget p = 255)

theorem requestTaken_iff :
    s.requestTaken src p ↔ (s.fromPanel src && s.targeted (requestTarget p)) = true := by
  rw [State.requestTaken, Bool.and_eq_true, fromPanel_iff, State.targeted, decide_eq_true_iff, and_assoc]

theorem takeRequest_notTaken (h : ¬ s.requestTaken src p) : s.takeRequest src p = s :=
  if_neg (mt requestTaken_iff.2 h)

theorem takeRequest_known {g a b c : Nat} (h : s.requestTaken src p) (hg : requestGroup p = g)
    (hv : s.groupValues g = some (a, b, c)) : s.takeRequest src p = s.handIn (.counterReply g a b c) := by
  unfold State.takeRequest
  rw [if_pos (requestTaken_iff.1 h), hg, hv]

theorem takeRequest_unknown (h : s.requestTaken src p) (hv : s.groupValues (requestGroup p) = none) :
    s.takeRequest src p = s := by
  unfold State.takeRequest
  rw [if_pos (requestTaken_iff.1 h), hv]

end

/-- Settles O46: a request is taken by its source and target, and then answered by the values of its group. -/
theorem counterRequestIsAnswered : Obligations.CounterRequestIsAnswered := by
  unfold Obligations.CounterRequestIsAnswered
  intro s t dt src p ht hr taken k answer
  have hexec : exec (.counterRequest dt src p) s = .next (t.takeRequest src p) := exec_counterRequest ht hr
  refine ⟨fun (h : ¬ t.requestTaken src p) => ?notTaken, fun (h : t.requestTaken src p) => ?taken⟩
  case notTaken => exact hexec.trans (congrArg _ (takeRequest_notTaken h))
  case taken =>
    have hanswer {g a b c : Nat} (hg : requestGroup p = g) (hv : t.groupValues g = some (a, b, c)) : answer g a b c :=
      hexec.trans (congrArg _ (takeRequest_known h hg hv))
    have hsilent (hv : t.groupValues (requestGroup p) = none) : exec (.counterRequest dt src p) s = .next t :=
      hexec.trans (congrArg _ (takeRequest_unknown h hv))
    refine ⟨fun hg => hanswer hg ?group0, fun hg => hanswer hg ?group1, fun hg => hanswer hg ?group2,
      fun hg => hanswer hg ?group3, fun hg => hanswer hg ?group4, fun i hi => ?head,
      fun h4 h16 => hsilent (groupValues_noStationGroup h4 h16), fun hg => hsilent (groupValues_noHead hg)⟩
    case group0 | group1 | group2 | group3 | group4 => exact groupValues_station (by decide)
    case head =>
      intro c
      have hvalues {k : Nat} (hk : k < 4) : t.groupValues (16 + k + 4 * i.val) = headGroup c (t.learned i) k :=
        groupValues_head hi hk (by omega)
      exact ⟨fun hg => hanswer hg (hvalues (k := 0) (by decide)), fun hg => hanswer hg (hvalues (k := 1) (by decide)),
        fun hg => hanswer hg (hvalues (k := 2) (by decide)), fun hg => hanswer hg (hvalues (k := 3) (by decide))⟩

end Sys2Proof.Machine
end

section
/-!
Steps: a step runs the front command (O1), and every command completes, leaves the queue of commands alone and moves the
clock by the time before it (O2).
-/
namespace Sys2Proof.Machine

/-- Settles O1: by the definition of a step. -/
theorem stepRunsTheFrontCommand : Obligations.StepRunsTheFrontCommand := by
  intro s c rest h
  unfold step
  rw [h]

/-! ## The queue of commands and the clock -/

/-- From `s` to `t` the commands that wait and the clock stand. -/
def KeepsClock (s t : State) : Prop :=
  t.pending = s.pending ∧ t.now = s.now

theorem KeepsClock.refl (s : State) : KeepsClock s s :=
  ⟨rfl, rfl⟩

/-- The pieces that the statement speaks of. -/
def clockPieces : List Piece :=
  [.pending, .now]

theorem KeepsClock.of_only {ps : List Piece} {s t : State} (h : ChangesOnly ps s t) (hd : ∀ p ∈ clockPieces, p ∉ ps) :
    KeepsClock s t :=
  ⟨h.keeps .pending (hd _ (by decide)), h.keeps .now (hd _ (by decide))⟩

theorem KeepsClock.ite {c : Prop} [Decidable c] {s t u : State} (h₁ : c → KeepsClock s t) (h₂ : ¬c → KeepsClock s u) :
    KeepsClock s (if c then t else u) := by
  split
  · exact h₁ ‹_›
  · exact h₂ ‹_›

/-- The reception of a frame whose owner changes some pieces, the queue of commands and the clock not among them. -/
theorem receive_keepsClock {ps : List Piece} (s : State) (src : Address) (owner : State → State)
    (h : ∀ t, ChangesOnly ps t (owner t)) (hd : ∀ p ∈ clockPieces, p ∉ ps) : KeepsClock s (s.receive src owner) :=
  .of_only (receive_only s src owner h) fun p hp =>
    List.not_mem_append ((by decide : ∀ p ∈ clockPieces, p ∉ hearing) p hp) (hd p hp)

/-- As `receive_keepsClock`, for a kind of frame this station sends too. -/
theorem receiveOr_keepsClock {ps qs : List Piece} (s : State) (src : Address) (k : FrameKind) (b : List Byte)
    (echo owner : State → State) (he : ∀ t, ChangesOnly ps t (echo t)) (ho : ∀ t, ChangesOnly qs t (owner t))
    (hd : ∀ p ∈ clockPieces, p ∉ ps ++ qs) : KeepsClock s (s.receiveOr src k b echo owner) :=
  .of_only (receiveOr_only (ps := ps ++ qs) s src k b echo owner (fun t => (he t).mono (by simp))
    fun t => (ho t).mono (by simp)) fun p hp =>
    List.not_mem_append ((by decide : ∀ p ∈ clockPieces, p ∉ .inFlight :: hearing) p hp) (hd p hp)

/-- A count or a mark acts after the join only, and keeps what its effect keeps. -/
theorem ifJoined_keepsClock {ps : List Piece} (s : State) {f : State → State} (h : ChangesOnly ps s (f s))
    (hd : ∀ p ∈ clockPieces, p ∉ ps) : KeepsClock s (s.ifJoined f) :=
  .ite (fun _ => .of_only h hd) fun _ => .refl s

theorem resetEnd_keepsClock (s : State) (straps : Straps) : KeepsClock s (s.resetEnd straps) :=
  .ite (fun _ => .refl s) fun _ => .ite (fun _ => ⟨rfl, rfl⟩) fun _ => ⟨rfl, rfl⟩

/-- No command's effect touches the commands that wait or the clock. -/
theorem commandEffect_keepsClock (c : Instr) (s : State) : KeepsClock s (commandEffect c s) := by
  cases c with
  | forwardCount dt jp cp => exact ifJoined_keepsClock s (forwardCount_only s jp cp) (by decide)
  | reverseCount dt => exact ifJoined_keepsClock s (reverseCount_only s) (by decide)
  | illegalQuadratureStep dt => exact ifJoined_keepsClock s (illegalStep_only s) (by decide)
  | zeroMark dt jp cp => exact ifJoined_keepsClock s (zeroMark_only s jp cp) (by decide)
  | pitchTimeout dt => exact .of_only (pitchTimeout_only s) (by decide)
  | coldStop dt => exact .of_only (coldStop_only s) (by decide)
  | valveCloseTime dt i => exact .of_only (valveCloseTime_only s i) (by simp [clockPieces, reporting])
  | jarRecord dt src p =>
    exact receive_keepsClock s src (fun u => u.takeRecord src p) (takeRecord_only · src p) (by decide)
  | drawClaim dt src p =>
    exact receiveOr_keepsClock s src _ _ (fun u => u.claimEcho p) (fun u => u.peerClaim src p)
      (claimEcho_only · p) (peerClaim_only · src p) (by decide)
  | drawEnd dt src p =>
    exact receiveOr_keepsClock s src _ _ (fun u => u.drawEndEcho p.toNat) (fun u => u.peerDrawEnd src p.toNat)
      (drawEndEcho_only · p.toNat) (peerDrawEnd_only · src p.toNat) (by decide)
  | steamHold dt src p =>
    exact receiveOr_keepsClock s src _ _ (fun u => u.takeHold .own p.toNat) (fun u => u.takeHold .peer p.toNat)
      (takeHold_only · .own p.toNat) (takeHold_only · .peer p.toNat) (by decide)
  | claimRetry dt i =>
    exact .of_only (claimRetry_only s i) (by simp [clockPieces, claimPieces, reporting])
  | drawEntryExpiry dt src head => exact .of_only (drawEntryExpiry_only s src head) (by decide)
  | holdExpiry dt => exact .of_only (holdExpiry_only s) (by decide)
  | holdRenewal dt => exact .of_only (holdRenewal_only s) (by decide)
  | stloFall r => exact .of_only (stloFall_only s r.held) (by decide)
  | stloRise r => exact .of_only (stloRise_only s r.held) (by decide)
  | silenceThreshold dt => exact .of_only (silenceThreshold_only s) (by decide)
  | relistenEnd dt => exact .of_only (relistenEnd_only s) (by decide)
  | driveGrant dt => exact .of_only (driveGrant_only s) (by decide)
  | driveTransactionComplete dt reply => exact .of_only (transactionComplete_only s reply) (by decide)
  | resultWaitExpiry dt i => exact .of_only (resultWaitExpiry_only s i) (by simp [clockPieces])
  | verdict dt src p =>
    exact receive_keepsClock s src (fun u => u.takeVerdict src p) (takeVerdict_only · src p) (by decide)
  | verdictExpiry dt => exact .of_only (verdictExpiry_only s) (by decide)
  | headReturn dt src p =>
    exact receive_keepsClock s src (fun u => u.takeReturn src p) (takeReturn_only · src p) (by decide)
  | lineMode dt src p =>
    exact receive_keepsClock s src (fun u => u.takeLineMode src p) (takeLineMode_only · src p) (by decide)
  | lineClear dt src p =>
    exact receive_keepsClock s src (fun u => u.takeLineClear src p) (takeLineClear_only · src p) (by decide)
  | join dt src p =>
    exact receiveOr_keepsClock s src _ _ State.joinEcho (fun u => u.takeJoin src p)
      joinEcho_only (takeJoin_only · src p) (by decide)
  | joinTimer dt => exact .of_only (joinTimer_only s) (by decide)
  | joinWindowPass dt => exact .of_only (joinWindowPass_only s) (by decide)
  | setup dt src p => exact receive_keepsClock s src (fun u => u.takeSetup src p) (takeSetup_only · src p) (by decide)
  | profile dt src p =>
    exact receive_keepsClock s src (fun u => u.takeProfile src p) (takeProfile_only · src p) (by decide)
  | noticeClear dt src p =>
    exact receive_keepsClock s src (fun u => u.takeNoticeClear src p) (takeNoticeClear_only · src p) (by decide)
  | noticeMaskSet dt src p =>
    exact receive_keepsClock s src (fun u => u.takeMaskSet src p) (takeMaskSet_only · src p) (by decide)
  | noticeMaskClear dt src p =>
    exact receive_keepsClock s src (fun u => u.takeMaskClear src p) (takeMaskClear_only · src p) (by decide)
  | counterRequest dt src p =>
    exact receive_keepsClock s src (fun u => u.takeRequest src p) (takeRequest_only · src p) (by decide)
  | frameContentionStart dt => exact .of_only (contentionStart_only s) (by decide)
  | lostContention r => exact .of_only (lostContention_only s r.bit r.level) (by decide)
  | transmitError r => exact .of_only (transmitError_only s r.bit r.level) (by decide)
  | badFrameReceived dt r => exact .of_only (badReceived_only s r) (by decide)
  | unownedFrame dt src kind payload =>
    exact .of_only (receiveUnowned_only s src kind.toNat payload) (by decide)
  | busIdleSeen dt => exact .of_only (busIdleSeen_only s) (by decide)
  | supplyLow dt => exact ⟨rfl, rfl⟩
  | resetPin dt => exact ⟨rfl, rfl⟩
  | resetEnd dt addr hcPins fh => exact resetEnd_keepsClock s _
  | startBit dt => exact .of_only (startBit_only s) (by decide)
  | contentionWon dt => exact .of_only (contentionWon_only s) (by decide)
  | joinEcho dt => exact .of_only (receiveJoinEcho_only s) (by decide)

theorem whenLive_keepsClock (s : State) (dt : Nat) {f : State → State} (h : ∀ t, KeepsClock t (f t)) :
    KeepsClock (s.elapse dt) (s.whenLive dt f) :=
  .ite (fun _ => .refl _) fun _ => h _

/-- Settles O2: time moves the clock by the time before the command, and the command's effect leaves it alone. -/
theorem everyCommandCompletes : Obligations.EveryCommandCompletes := by
  refine ⟨fun s c => ?command, fun s h => ?emptyQueue⟩
  case command =>
    have hcompletes {u : State} (hu : KeepsClock (s.elapse (elapsedBefore c)) u) :
        u.pending = s.pending ∧ u.now = s.now + elapsedBefore c :=
      ⟨hu.1.trans (elapse_pending s _), hu.2.trans (elapse_now s _)⟩
    cases hc : actsInReset c with
    | true => exact ⟨_, exec_eq_of_actsInReset hc s, hcompletes (commandEffect_keepsClock c _)⟩
    | false => exact ⟨_, exec_eq_whenLive hc s, hcompletes (whenLive_keepsClock s _ (commandEffect_keepsClock c))⟩
  case emptyQueue =>
    have hstep : step s = .next (s.elapse 1) := by
      unfold step
      rw [h]
    exact ⟨_, hstep, (elapse_pending s 1).trans h, elapse_now s 1⟩

end Sys2Proof.Machine
end

section
/-!
The state after reset, condition by condition: its lists and tables are empty, its heads are idle, nothing waits on the
bus, and the station is in JOINING; and the statement (O53).
-/
namespace Sys2Proof.Machine

/-! ## Ranges and lists -/

theorem reset_inRange : State.reset.InRange :=
  atPowerOn_inRange 0 _

theorem reset_queueInOrder : State.reset.queueInOrder := by
  unfold State.queueInOrder
  decide

theorem reset_recordsOwned : State.reset.recordsOwned := by
  unfold State.recordsOwned
  decide

theorem reset_tableKeysOnce : State.reset.tableKeysOnce :=
  List.nodup_nil

theorem reset_awaitingInOrder : State.reset.awaitingInOrder := by
  unfold State.awaitingInOrder
  decide

/-! ## Heads and turret -/

theorem reset_idleHeadsEmpty : State.reset.idleHeadsEmpty := by
  unfold State.idleHeadsEmpty
  decide

theorem reset_valvesOnlyInFlush : State.reset.valvesOnlyInFlush := by
  unfold State.valvesOnlyInFlush
  decide

/-- No record is held anywhere, so no seq is held. -/
theorem reset_seqsHeld : State.reset.seqsHeld = [] :=
  rfl

theorem reset_seqsHeldOnce : State.reset.seqsHeldOnce := by
  refine ⟨reset_idleHeadsEmpty, ?_, ?_⟩
  · rw [reset_seqsHeld]
    exact List.nodup_nil
  · simp [reset_seqsHeld]

theorem reset_deferredBehindStop : State.reset.deferredBehindStop := by
  unfold State.deferredBehindStop
  decide

/-- A station in JOINING is not ISOLATED, and its position is not measured. -/
theorem reset_turretLaw : State.reset.turretLaw :=
  turretLaw_of_joining rfl rfl

/-! ## Steam -/

/-- Neither in the queue nor in flight is there a DRAW_END. -/
theorem reset_not_drawEndPending (i : LocalHead) : ¬ State.reset.drawEndPending i := by
  rintro (⟨e, he, -⟩ | ⟨f, hf, -⟩)
  · exact absurd he List.not_mem_nil
  · exact absurd hf (Option.not_mem_none f)

theorem reset_drawsWithinHeader : State.reset.drawsWithinHeader := by
  unfold State.drawsWithinHeader
  decide

theorem reset_claimFramesAgree : State.reset.claimFramesAgree := by
  unfold State.claimFramesAgree
  decide

theorem reset_drawEndsGoFirst : State.reset.drawEndsGoFirst := fun i _ _ =>
  ⟨fun _ hc => absurd hc List.not_mem_nil, fun _ _ _ => reset_not_drawEndPending i⟩

theorem reset_valvesDrawn : State.reset.valvesDrawn := fun i hopen =>
  absurd (reset_valvesOnlyInFlush i hopen) (by revert i; decide)

theorem reset_noDrawEndBehind : State.reset.noDrawEndBehind := fun i h =>
  absurd h (reset_not_drawEndPending i)

theorem reset_steamLawful : State.reset.steamLawful :=
  ⟨(inRange_iff.1 reset_inRange).1, reset_queueInOrder, reset_idleHeadsEmpty, reset_valvesOnlyInFlush,
    reset_drawsWithinHeader, reset_claimFramesAgree, reset_drawEndsGoFirst, reset_valvesDrawn⟩

/-- Settles O53, condition by condition. -/
theorem resetStateMeetsEveryInvariant : Obligations.ResetStateMeetsEveryInvariant := by
  obtain ⟨hsizes, hcounters, hlearned⟩ := inRange_iff.1 reset_inRange
  obtain ⟨hposition, hisolated⟩ := reset_turretLaw
  exact ⟨hsizes, hcounters, hlearned, reset_queueInOrder, reset_idleHeadsEmpty, reset_valvesOnlyInFlush,
    reset_seqsHeldOnce, reset_recordsOwned, reset_drawsWithinHeader, reset_tableKeysOnce, reset_deferredBehindStop,
    hisolated, hposition, reset_awaitingInOrder, reset_steamLawful, reset_noDrawEndBehind⟩

end Sys2Proof.Machine
end

section
/-!
The timed rows: the earliest of them, what is due at each time, and time passing row by row; and the statement (O3).
-/
namespace Sys2Proof.Machine

/-! ## The earliest row -/

theorem earliest_cons_none (x : Nat × TimedEvent) {l : List (Nat × TimedEvent)} (h : earliest l = none) :
    earliest (x :: l) = some x := by
  rw [earliest, h]

theorem earliest_cons_some (x : Nat × TimedEvent) {l : List (Nat × TimedEvent)} {y : Nat × TimedEvent}
    (h : earliest l = some y) : earliest (x :: l) = if y.1 < x.1 then some y else some x := by
  rw [earliest, h]

theorem earliest_eq_none {l : List (Nat × TimedEvent)} : earliest l = none ↔ l = [] := by
  cases l with
  | nil => simp [earliest]
  | cons x l =>
    cases h : earliest l with
    | none => simp [earliest_cons_none x h]
    | some y =>
      rw [earliest_cons_some x h]
      split <;> simp

/-- The earliest row is a row of the list, none is due before it, and those listed before it are due after it. -/
theorem earliest_first {l : List (Nat × TimedEvent)} {x : Nat × TimedEvent} (h : earliest l = some x) :
    x ∈ l ∧ (∀ y ∈ l, x.1 ≤ y.1) ∧ ∀ y ∈ l.takeWhile (fun y => y != x), x.1 < y.1 := by
  induction l generalizing x with
  | nil => cases h
  | cons z l ih =>
    cases hl : earliest l with
    | none =>
      obtain rfl : z = x := Option.some.inj ((earliest_cons_none z hl).symm.trans h)
      simp [earliest_eq_none.1 hl]
    | some w =>
      obtain ⟨hmem, hleast, hfirst⟩ := ih hl
      rw [earliest_cons_some z hl] at h
      split at h
      case isTrue hlt =>
        obtain rfl := Option.some.inj h
        have hz : (z != w) = true := bne_iff_ne.2 fun he => absurd hlt (he ▸ lt_irrefl _)
        refine ⟨List.mem_cons_of_mem _ hmem, List.forall_mem_cons.2 ⟨hlt.le, hleast⟩, ?_⟩
        rw [List.takeWhile_cons, if_pos hz]
        exact List.forall_mem_cons.2 ⟨hlt, hfirst⟩
      case isFalse hle =>
        obtain rfl := Option.some.inj h
        have hz : ∀ y ∈ l, z.1 ≤ y.1 := fun y hy => (Nat.le_of_not_lt hle).trans (hleast y hy)
        exact ⟨List.mem_cons_self, List.forall_mem_cons.2 ⟨le_rfl, hz⟩, by simp⟩

/-! ## What is due -/

/-- The row `e` is due at time `d`, block by block (R10, R11, R19, R68, R72, R78, R80, R83, R84, R87, R91, R95, R99,
R128, R171). -/
def State.isDue (s : State) (d : Nat) : TimedEvent → Prop
  | .valveClose i => (s.head i).phase = .flushing ∧ (s.head i).valveOpen = true ∧ d = (s.head i).valveCloseAt
  | .claimRetry i => (s.claim i).state = .retry d
  | .resultWait i => (s.slot i).resultWait = some d
  | .drawExpiry src g => ∃ e ∈ s.sdu.table, e.src = src ∧ e.head = g ∧ e.endAt = d
  | .holdExpiry => s.sdu.hold = some d
  | .holdRenewal => s.sdu.renewal = some d
  | .relistenEnd => s.sdu.relisten = some d
  | .stloSample => s.sdu.stloInput ≠ s.sdu.stlo ∧ d = s.now
  | .silence => (s.sc.mode = .running ∨ s.sc.mode = .jog) ∧ s.sdu.isolated = false ∧ d = s.lbi.silenceStart + 250000
  | .pitchTimeout => s.joined = true ∧ 1 ≤ s.ttu.pitchCount ∧ s.ttu.tPitch ≠ 4000000 ∧ d = s.ttu.pitchStart + 4000000
  | .coldStop => s.joined = true ∧ (s.ttu.coldFired = false ∧ d = s.ttu.coldStart + s.setup.Tcold * 1000000
      ∨ s.ttu.coldWaits = true ∧ d = s.now)
  | .verdictExpiry => ∃ e ∈ s.vu.awaiting.head?, d = e.cappedAt + s.setup.Lv * 1000000
  | .transactionEnd => ∃ x ∈ s.dlc.current, x.endsAt = d
  | .driveGrant => s.dlc.current = none ∧ (∃ i, (s.slot i).pending ≠ none) ∧ d = s.now
  | .joinTimer => s.joined = false ∧ s.sc.joinTimer = some d
  | .joinWindow => s.sc.window = .running d

theorem retryEnd_eq_some {c : Claim} {d : Nat} : retryEnd c = some d ↔ c.state = .retry d := by
  unfold retryEnd
  cases c.state <;> simp

theorem windowEnd_eq_some {w : JoinWindow} {d : Nat} : windowEnd w = some d ↔ w = .running d := by
  cases w <;> simp [windowEnd]

theorem mem_headsAsking {s : State} {k : DriveKind} {i : LocalHead} :
    i ∈ s.headsAsking k ↔ ∃ r ∈ (s.slot i).pending, r.kind = k := by
  unfold State.headsAsking
  rw [List.mem_filter, isKind_iff]
  exact and_iff_right (by fin_cases i <;> simp)

/-- The arbiter grants a pending request (R99). -/
theorem granted_pending {s : State} {i : LocalHead} (h : s.granted = some i) : ∃ r, (s.slot i).pending = some r := by
  have hmem := List.mem_of_head? h
  simp only [List.mem_append, mem_headsAsking] at hmem
  rcases hmem with ((⟨r, hr, -⟩ | ⟨r, hr, -⟩) | ⟨r, hr, -⟩) | ⟨r, hr, -⟩ <;> exact ⟨r, hr⟩

/-- The arbiter has a head to grant where some request is pending (R99). -/
theorem granted_isSome {s : State} : s.granted.isSome = true ↔ ∃ i, (s.slot i).pending ≠ none := by
  constructor
  · intro h
    obtain ⟨i, hi⟩ := Option.isSome_iff_exists.1 h
    obtain ⟨r, hr⟩ := granted_pending hi
    exact ⟨i, by simp [hr]⟩
  · rintro ⟨i, hi⟩
    obtain ⟨r, hr⟩ := Option.ne_none_iff_exists'.1 hi
    have hmem : i ∈ s.headsAsking r.kind := mem_headsAsking.2 ⟨r, hr, rfl⟩
    refine List.isSome_head?.2 (List.ne_nil_of_mem (a := i) ?_)
    cases hk : r.kind <;> simp [← hk, hmem]

/-- The head that a row of one head is of. -/
def TimedEvent.ofHead : TimedEvent → Option LocalHead
  | .valveClose i | .claimRetry i | .resultWait i => some i
  | .drawExpiry _ _ | .holdExpiry | .holdRenewal | .relistenEnd | .stloSample | .silence | .pitchTimeout | .coldStop
  | .verdictExpiry | .transactionEnd | .driveGrant | .joinTimer | .joinWindow => none

/-- The rows listed for a head are those of it that are due. -/
theorem mem_headTimers {s : State} {i : LocalHead} {d : Nat} {e : TimedEvent} :
    (d, e) ∈ s.headTimers i ↔ s.isDue d e ∧ e.ofHead = some i := by
  unfold State.headTimers
  simp only [List.mem_append, mem_dueIf, mem_dueAt, retryEnd_eq_some, Bool.and_eq_true, decide_eq_true_eq]
  cases e <;> simp [State.isDue, TimedEvent.ofHead]
  case valveClose j =>
    rw [← and_assoc]
    exact and_congr_left fun h => by rw [h, and_assoc]
  case claimRetry j | resultWait j => rintro rfl; rfl

theorem mem_allHeadTimers {s : State} {d : Nat} {e : TimedEvent} :
    ((((d, e) ∈ s.headTimers 0 ∨ (d, e) ∈ s.headTimers 1) ∨ (d, e) ∈ s.headTimers 2) ∨ (d, e) ∈ s.headTimers 3)
      ↔ s.isDue d e ∧ e.ofHead.isSome = true := by
  simp only [mem_headTimers, ← and_or_left]
  refine and_congr_right fun _ => ?_
  cases h : e.ofHead with
  | none => simp
  | some i => fin_cases i <;> simp

theorem mem_expiryTimer {s : State} {d : Nat} {e : TimedEvent} :
    (d, e) ∈ s.expiryTimer ↔ e = .verdictExpiry ∧ s.isDue d .verdictExpiry := by
  unfold State.expiryTimer
  cases h : s.vu.awaiting <;> simp [State.isDue, h, and_comm]

/-- Each row is listed with the times at which it is due, and during a reset none is. -/
theorem mem_timers {s : State} {d : Nat} {e : TimedEvent} :
    (d, e) ∈ s.timers ↔ s.sc.inReset = false ∧ s.isDue d e := by
  unfold State.timers
  split
  case isTrue h => simp [h]
  case isFalse h =>
    rw [Bool.not_eq_true] at h
    simp only [List.mem_append, mem_allHeadTimers, mem_dueIf, mem_dueAt, mem_expiryTimer, h, true_and]
    cases e <;> simp [State.isDue, TimedEvent.ofHead, stloDue_iff, capping_iff, granted_isSome, windowEnd_eq_some]
    case pitchTimeout => rw [and_assoc, and_assoc]
    case silence | driveGrant => exact and_assoc
    case coldStop => simp only [and_assoc, ← and_or_left]
    case drawExpiry src g => exact exists_congr fun a => and_congr_right fun _ => by rw [and_comm, and_assoc]

/-! ## Time passing row by row -/

/-- Taking the rows one after another and then letting the clock move on is the passing of time. -/
theorem passTo_of_takesRows {target n : Nat} {rows : List (Nat × TimedEvent)} {s u : State}
    (h : s.takesRows target rows u) (hn : rows.length ≤ n) : State.passTo target n s = u.setNow target := by
  induction n generalizing rows s with
  | zero =>
    obtain rfl := List.length_eq_zero_iff.1 (Nat.le_zero.1 hn)
    obtain ⟨rfl, -⟩ := takesRows_nil.1 h
    rfl
  | succ n ih =>
    unfold State.passTo
    cases rows with
    | nil =>
      obtain ⟨rfl, hlate⟩ := takesRows_nil.1 h
      split
      · next d e he => rw [if_neg (Nat.not_lt.2 (hlate _ (earliest_first he).1))]
      · rfl
    | cons x rows =>
      obtain ⟨he, hx, hrest⟩ := takesRows_cons.1 h
      rw [he]
      dsimp only
      rw [if_pos hx]
      exact ih hrest (Nat.le_of_succ_le_succ hn)

theorem elapse_of_takesRows {s u : State} {dt : Nat} (hdt : 0 < dt) {rows : List (Nat × TimedEvent)}
    (hn : rows.length ≤ dt + 512) (h : s.takesRows (s.now + dt) rows u) : s.elapse dt = u.setNow (s.now + dt) := by
  unfold State.elapse
  rw [if_neg hdt.ne']
  exact passTo_of_takesRows h hn

theorem elapse_of_noneDue {s : State} {dt : Nat} (h : ∀ x ∈ s.timers, s.now + dt ≤ x.1) :
    s.elapse dt = s.setNow (s.now + dt) := by
  rcases Nat.eq_zero_or_pos dt with rfl | hdt
  · exact elapse_zero s
  · exact elapse_of_takesRows hdt (rows := []) (Nat.zero_le _) ⟨rfl, h⟩

/-- Settles O3: rows taken one after another are the passing of time, and the rows are those of `State.isDue`. -/
theorem timeTakesTheRowDueFirst : Obligations.TimeTakesTheRowDueFirst := by
  refine ⟨fun s dt => ⟨elapse_of_noneDue, fun hdt x hx hxlt => ?_, fun hdt rows u hn h => elapse_of_takesRows hdt hn h⟩,
    fun s => ⟨earliest_eq_none.symm, fun x hx => earliest_first hx⟩, fun s h => ?inReset, fun s d h => ?live⟩
  · intro u
    have htwo : 2 ≤ dt + 512 := by omega
    refine ⟨fun hlate => ?one, fun y hy hylt => ?two⟩
    case one => exact elapse_of_takesRows hdt (rows := [x]) (Nat.le_of_succ_le htwo) ⟨hx, hxlt, rfl, hlate⟩
    case two =>
      intro w hlate
      exact elapse_of_takesRows hdt (rows := [x, y]) htwo ⟨hx, hxlt, hy, hylt, rfl, hlate⟩
  case inReset => exact List.eq_nil_iff_forall_not_mem.2 fun x hx => by simp [(mem_timers.1 hx).1] at h
  case live =>
    intro due
    have hdue (e : TimedEvent) : due e ↔ s.isDue d e := mem_timers.trans (and_iff_right h)
    exact ⟨fun i => hdue (.valveClose i), fun i => hdue (.claimRetry i), fun i => hdue (.resultWait i),
      fun src g => hdue (.drawExpiry src g), hdue .holdExpiry, hdue .holdRenewal, hdue .relistenEnd, hdue .stloSample,
      hdue .silence, hdue .pitchTimeout, hdue .coldStop, hdue .verdictExpiry, hdue .transactionEnd, hdue .driveGrant,
      hdue .joinTimer, hdue .joinWindow⟩

end Sys2Proof.Machine
end

section
/-!
How many timed rows are still to come before a moment: a measure of the state that each timed row lowers. It counts what
can still run out or be granted, block by block; a wait that is set anew each time it ends counts once for each of its
periods.
-/
namespace Sys2Proof

/-- The sum of a measure over the four heads. -/
def PerHead.total {α : Type} (p : PerHead α) (f : α → Nat) : Nat :=
  f p.h0 + f p.h1 + f p.h2 + f p.h3

theorem PerHead.total_upd {α : Type} (p : PerHead α) (i : LocalHead) (g : α → α) (f : α → Nat) :
    (p.upd i g).total f + f (p.get i) = p.total f + f (g (p.get i)) := by
  unfold PerHead.total PerHead.upd
  fin_cases i <;> simp only [PerHead.set, PerHead.get] <;> omega

theorem PerHead.total_le {α : Type} {f : α → Nat} {n : Nat} (h : ∀ a, f a ≤ n) (p : PerHead α) : p.total f ≤ 4 * n := by
  have h0 := h p.h0
  have h1 := h p.h1
  have h2 := h p.h2
  have h3 := h p.h3
  unfold PerHead.total
  omega

theorem PerHead.total_le_total {α : Type} {f g : α → Nat} {p q : PerHead α} (h : ∀ i, f (p.get i) ≤ g (q.get i)) :
    p.total f ≤ q.total g :=
  Nat.add_le_add (Nat.add_le_add (Nat.add_le_add (h 0) (h 1)) (h 2)) (h 3)

end Sys2Proof

namespace Sys2Proof.Machine

/-! ## Waits -/

/-- How often a wait that ends at `t`, and is set anew for `wait` µs each time it ends, can end before `target`. A wait
that does not run, or runs longer than one set now, counts as one set now. -/
def waitEnds (target now wait : Nat) (t : Option Nat) : Nat :=
  (target + (wait - 1) - max now (min (t.getD (now + wait)) (now + wait))) / wait

/-- No wait has fewer ends to come than one that does not run. -/
theorem waitEnds_none_le (target now wait : Nat) (t : Option Nat) :
    waitEnds target now wait none ≤ waitEnds target now wait t := by
  unfold waitEnds
  refine Nat.div_le_div_right (Nat.sub_le_sub_left ?_ _)
  simp only [Option.getD_none]
  omega

theorem waitEnds_anew (target now wait : Nat) :
    waitEnds target now wait (some (now + wait)) = waitEnds target now wait none :=
  rfl

/-- An end that is reached is one of those to come. -/
theorem waitEnds_reached {target now wait d : Nat} (hw : 0 < wait) (hd : d ≤ now) (ht : now < target) :
    waitEnds target now wait none + 1 = waitEnds target now wait (some d) := by
  have hnone : target + (wait - 1) - max now (min (now + wait) (now + wait)) = target - 1 - now := by omega
  have hsome : target + (wait - 1) - max now (min d (now + wait)) = target - 1 - now + wait := by omega
  unfold waitEnds
  rw [Option.getD_none, Option.getD_some, hnone, hsome, Nat.add_div_right _ hw]

/-- As the clock moves on there are no more ends to come. -/
theorem waitEnds_later {now later : Nat} (h : now ≤ later) (target wait : Nat) (t : Option Nat) :
    waitEnds target later wait t ≤ waitEnds target now wait t := by
  unfold waitEnds
  refine Nat.div_le_div_right (Nat.sub_le_sub_left ?_ _)
  cases t <;> simp only [Option.getD_none, Option.getD_some] <;> omega

/-- No wait of the station is shorter than 5 ms (R71, R83, R171). -/
theorem waitEnds_le (now dt : Nat) {wait : Nat} (hw : 5000 ≤ wait) (t : Option Nat) :
    waitEnds (now + dt) now wait t ≤ dt / 5000 + 1 := by
  have hends : waitEnds (now + dt) now wait t ≤ dt / wait + 1 := by
    unfold waitEnds
    rw [← Nat.add_div_right _ (by omega)]
    exact Nat.div_le_div_right (by omega)
  have hperiod : dt / wait ≤ dt / 5000 := Nat.div_le_div_left hw (by decide)
  omega

/-! ## The measure -/

/-- One for a place that is taken. -/
def occupied {α : Type} (o : Option α) : Nat :=
  o.isSome.toNat

@[simp] theorem occupied_none {α : Type} : occupied (none : Option α) = 0 :=
  rfl

@[simp] theorem occupied_some {α : Type} (a : α) : occupied (some a) = 1 :=
  rfl

theorem occupied_le {α : Type} (o : Option α) : occupied o ≤ 1 :=
  Bool.toNat_le _

/-- The pitch timeout, and one cold stop (R10, R11). -/
def Ttu.rowsLeft (t : Ttu) : Nat :=
  (t.tPitch != Config.turretStopped).toNat + (!t.coldFired || t.coldWaits).toNat

/-- A claiming head may come to a valve-close time and a draw entry, an open valve has its close time, and a head in
RELEASING may come to an awaiting-verdict entry (R19, R68, R122). -/
def Head.rowsLeft (h : Head) : Nat :=
  match h.phase with
  | .claiming => 2
  | .flushing => h.valveOpen.toNat
  | .releasing => 1
  | .idle | .seated | .capHeld | .pressed | .torquing => 0

/-- A request has its grant and the end of its transaction, and a RESULT wait its end before them (R91, R95, R99). -/
def DriveSlot.rowsLeft (d : DriveSlot) : Nat :=
  2 * occupied d.pending + 2 * occupied d.deferred + 3 * occupied d.resultWait

/-- The timers of the steam draw: the entries of the table, the holds, the sample, the silence and the retries. -/
def Sdu.rowsLeft (target now : Nat) (u : Sdu) : Nat :=
  u.table.length + occupied u.hold + occupied u.relisten + (u.stloInput != u.stlo).toNat
    + (!u.isolated).toNat + waitEnds target now Config.renewalWait u.renewal
    + u.claims.total fun c => waitEnds target now Config.retryWait (retryEnd c)

/-- The transaction on the link and the requests behind it. -/
def Dlc.rowsLeft (d : Dlc) : Nat :=
  occupied d.current + d.slots.total DriveSlot.rowsLeft

/-- The join window, with the cold stop, the sample and the silence that a join makes possible again (R1, R64, R176). -/
def JoinWindow.rowsLeft : JoinWindow → Nat
  | .running _ => 4
  | .notStarted | .passed => 0

def Sc.rowsLeft (target now : Nat) (c : Sc) : Nat :=
  waitEnds target now Config.joinInterval c.joinTimer + c.window.rowsLeft

/-- A bound on the rows that time can still bring about before `target`. -/
def State.rowsLeft (target : Nat) (s : State) : Nat :=
  s.ttu.rowsLeft + s.heads.total Head.rowsLeft + s.sdu.rowsLeft target s.now + s.dlc.rowsLeft + s.vu.awaiting.length
    + s.sc.rowsLeft target s.now

theorem Head.rowsLeft_le (h : Head) : h.rowsLeft ≤ 2 := by
  unfold Head.rowsLeft
  split
  case h_2 => exact (Bool.toNat_le _).trans (by decide)
  all_goals decide

theorem DriveSlot.rowsLeft_le (d : DriveSlot) : d.rowsLeft ≤ 7 := by
  have hp := occupied_le d.pending
  have hd := occupied_le d.deferred
  have hr := occupied_le d.resultWait
  unfold DriveSlot.rowsLeft
  omega

theorem Sdu.rowsLeft_le {u : Sdu} (h : u.table.length ≤ 64) (now dt : Nat) :
    u.rowsLeft (now + dt) now ≤ 73 + 5 * (dt / 5000) := by
  have hhold := occupied_le u.hold
  have hrelisten := occupied_le u.relisten
  have hrenewal := waitEnds_le now dt (wait := Config.renewalWait) le_rfl u.renewal
  have hclaims := PerHead.total_le (fun c => waitEnds_le now dt (wait := Config.retryWait) le_rfl (retryEnd c))
    u.claims
  have hsample := Bool.toNat_le (u.stloInput != u.stlo)
  have hsilence := Bool.toNat_le (!u.isolated)
  unfold Sdu.rowsLeft
  omega

/-- The fuel of `State.elapse` is more than the rows that can come (log 3). -/
theorem rowsLeft_le {s : State} (h : s.withinSizes) (dt : Nat) : s.rowsLeft (s.now + dt) ≤ dt + 512 := by
  obtain ⟨-, htable, hawaiting, -⟩ := h
  have hheads := PerHead.total_le Head.rowsLeft_le s.heads
  have hslots := PerHead.total_le DriveSlot.rowsLeft_le s.dlc.slots
  have hsdu := Sdu.rowsLeft_le htable s.now dt
  have hcurrent := occupied_le s.dlc.current
  have hjoin := waitEnds_le s.now dt (wait := Config.joinInterval) (by decide) s.sc.joinTimer
  have hwindow : s.sc.window.rowsLeft ≤ 4 := by cases s.sc.window <;> simp [JoinWindow.rowsLeft]
  have httu : s.ttu.rowsLeft ≤ 2 := Nat.add_le_add (Bool.toNat_le _) (Bool.toNat_le _)
  simp only [Config.awaitingSize] at hawaiting
  unfold State.rowsLeft Dlc.rowsLeft Sc.rowsLeft
  omega

end Sys2Proof.Machine
end

section
/-!
The measure through the operations that timed rows are made of: none raises it, but for an entry written or handed off,
which counts once.
-/
namespace Sys2Proof.Machine

/-! ## The relation -/

/-- From `s` to `t` the clock stands and no more rows are to come before any moment. -/
def NoMoreRows (s t : State) : Prop :=
  t.now = s.now ∧ ∀ target, t.rowsLeft target ≤ s.rowsLeft target

theorem NoMoreRows.refl (s : State) : NoMoreRows s s :=
  ⟨rfl, fun _ => le_rfl⟩

theorem NoMoreRows.trans {s t u : State} (h₁ : NoMoreRows s t) (h₂ : NoMoreRows t u) : NoMoreRows s u :=
  ⟨h₂.1.trans h₁.1, fun target => (h₂.2 target).trans (h₁.2 target)⟩

theorem NoMoreRows.ite {c : Prop} [Decidable c] {s t u : State} (h₁ : c → NoMoreRows s t) (h₂ : ¬c → NoMoreRows s u) :
    NoMoreRows s (if c then t else u) := by
  split
  · exact h₁ ‹_›
  · exact h₂ ‹_›

theorem NoMoreRows.eachOwned (s : State) {act : LocalHead → State → State} (h : ∀ i t, NoMoreRows t (act i t)) :
    NoMoreRows s (s.eachOwned act) :=
  foldl_keeps (P := NoMoreRows s) (.refl s) fun i _ t ht => ht.trans (h i t)

/-- The pieces that the measure reads. -/
def rowPieces : List Piece :=
  [.now, .ttu, .link, .awaiting, .joining] ++ steamPieces ++ ofHeads .head ++ ofHeads .slot

/-- What changes no piece that the measure reads leaves it as it is. -/
theorem NoMoreRows.of_only {ps : List Piece} {s t : State} (h : ChangesOnly ps s t) (hd : ∀ p ∈ rowPieces, p ∉ ps) :
    NoMoreRows s t := by
  have hk : ∀ p ∈ rowPieces, p.same s t := fun p hp => h.keeps p (hd p hp)
  have hheads : t.heads = s.heads := PerHead.ext_get fun i => hk (.head i) (by simp [rowPieces, mem_ofHeads])
  have hslots : t.dlc.slots = s.dlc.slots := PerHead.ext_get fun i => hk (.slot i) (by simp [rowPieces, mem_ofHeads])
  have hsdu : t.sdu = s.sdu := sdu_of_only h fun p hp => hd p (by simp [rowPieces, hp])
  have hnow := hk .now (by decide)
  have httu := hk .ttu (by decide)
  have hlink := hk .link (by decide)
  have hawaiting := hk .awaiting (by decide)
  obtain ⟨htimer, hwindow⟩ := hk .joining (by decide)
  simp only [Piece.same] at hnow httu hlink hawaiting
  refine ⟨hnow, fun target => le_of_eq ?_⟩
  unfold State.rowsLeft Dlc.rowsLeft Sc.rowsLeft
  rw [hnow, httu, hlink, hawaiting, htimer, hwindow, hheads, hslots, hsdu]

/-! ## Updates at one head -/

theorem rowsLeft_updHead (target : Nat) (s : State) (i : LocalHead) (f : Head → Head) :
    (s.updHead i f).rowsLeft target + (s.head i).rowsLeft = s.rowsLeft target + (f (s.head i)).rowsLeft := by
  have h := s.heads.total_upd i f Head.rowsLeft
  simp only [State.rowsLeft, State.updHead, State.head]
  omega

theorem updHead_noMoreRows {s : State} {i : LocalHead} {f : Head → Head}
    (h : (f (s.head i)).rowsLeft ≤ (s.head i).rowsLeft) : NoMoreRows s (s.updHead i f) := by
  refine ⟨rfl, fun target => ?_⟩
  have := rowsLeft_updHead target s i f
  omega

theorem rowsLeft_updSlot (target : Nat) (s : State) (i : LocalHead) (f : DriveSlot → DriveSlot) :
    (s.updSlot i f).rowsLeft target + (s.slot i).rowsLeft = s.rowsLeft target + (f (s.slot i)).rowsLeft := by
  have h := s.dlc.slots.total_upd i f DriveSlot.rowsLeft
  simp only [State.rowsLeft, State.updSlot, State.slot, Dlc.rowsLeft]
  omega

theorem rowsLeft_updClaim (target : Nat) (s : State) (i : LocalHead) (f : Claim → Claim) :
    (s.updClaim i f).rowsLeft target + waitEnds target s.now Config.retryWait (retryEnd (s.claim i))
      = s.rowsLeft target + waitEnds target s.now Config.retryWait (retryEnd (f (s.claim i))) := by
  have h := s.sdu.claims.total_upd i f fun c => waitEnds target s.now Config.retryWait (retryEnd c)
  simp only [State.rowsLeft, State.updClaim, State.claim, Sdu.rowsLeft] at h ⊢
  omega

/-- A claim that is left without a retry, or with one that is set now, brings no more rows. -/
theorem updClaim_noMoreRows {s : State} {i : LocalHead} {f : Claim → Claim}
    (h : retryEnd (f (s.claim i)) = none ∨ retryEnd (f (s.claim i)) = some (s.now + Config.retryWait)) :
    NoMoreRows s (s.updClaim i f) := by
  refine ⟨rfl, fun target => ?_⟩
  have hbefore := rowsLeft_updClaim target s i f
  have hleast := waitEnds_none_le target s.now Config.retryWait (retryEnd (s.claim i))
  have hset : waitEnds target s.now Config.retryWait (retryEnd (f (s.claim i)))
      = waitEnds target s.now Config.retryWait none := by
    rcases h with h | h <;> rw [h]
    exact waitEnds_anew target s.now _
  omega

theorem clearClaim_noMoreRows (s : State) (i : LocalHead) : NoMoreRows s (s.updClaim i fun _ => .clear) :=
  updClaim_noMoreRows (Or.inl rfl)

theorem flag_noMoreRows (s : State) (i : LocalHead) (f : JarFlag) : NoMoreRows s (s.flag i f) :=
  updHead_noMoreRows le_rfl

theorem markJog_noMoreRows (s : State) (i : LocalHead) : NoMoreRows s (s.markJog i) :=
  .ite (fun _ => flag_noMoreRows s i _) fun _ => .refl s

theorem endClaims_noMoreRows (s : State) (i : LocalHead) : NoMoreRows s (s.endClaims i) :=
  updHead_noMoreRows le_rfl

theorem updCounters_noMoreRows (s : State) (i : LocalHead) (f : HeadCounters → HeadCounters) :
    NoMoreRows s (s.updCounters i f) :=
  .of_only (updCounters_only s i f) (by simp [rowPieces, steamPieces, ofHeads])

/-! ## The transmit queue -/

theorem claimRefused_noMoreRows (s : State) (i : LocalHead) : NoMoreRows s (s.claimRefused i) :=
  .ite (fun _ => updClaim_noMoreRows (Or.inr rfl)) fun _ => clearClaim_noMoreRows s i

/-- A renewal set now brings no more rows than one that runs, or than none. -/
theorem setRenewal_noMoreRows (s : State) :
    NoMoreRows s { s with sdu := { s.sdu with renewal := some (s.now + Config.renewalWait) } } := by
  refine ⟨rfl, fun target => ?_⟩
  have h := waitEnds_none_le target s.now Config.renewalWait s.sdu.renewal
  rw [← waitEnds_anew] at h
  simp only [State.rowsLeft, Sdu.rowsLeft]
  omega

theorem takeLoss_noMoreRows (s : State) (f : TxFrame) : NoMoreRows s (s.takeLoss f) := by
  cases f with
  | drawClaim g u d =>
    unfold State.takeLoss
    dsimp only
    split
    · exact claimRefused_noMoreRows s _
    · exact .refl s
  | steamHold q => exact setRenewal_noMoreRows s
  | drawEnd | jarReport | headState | join | notice | counterReply => exact .refl s

theorem enter_noMoreRows (s : State) (e : TxEntry) : NoMoreRows s (s.enter e) := by
  have ha : NoMoreRows s (s.arrive e) := .of_only (arrive_only s e) (by decide)
  unfold State.enter
  split
  · exact ha
  · exact ha.trans ((NoMoreRows.of_only (latchTxDrop_only _) (by decide)).trans (takeLoss_noMoreRows _ _))

theorem handIn_noMoreRows (s : State) (f : TxFrame) : NoMoreRows s (s.handIn f) :=
  (NoMoreRows.of_only (nextAge_only s) (by decide)).trans (enter_noMoreRows _ _)

theorem latch_noMoreRows (s : State) (n : Notice) : NoMoreRows s (s.latch n) :=
  .of_only (latch_only s n) (by decide)

/-! ## Claims and valves -/

theorem withdrawClaim_noMoreRows (s : State) (i : LocalHead) : NoMoreRows s (s.withdrawClaim i) := by
  unfold State.withdrawClaim
  split
  · exact .refl s
  · exact .refl s
  · exact (NoMoreRows.of_only (removeClaimFrame_only s i) (by decide)).trans ((clearClaim_noMoreRows _ i).trans
      (endClaims_noMoreRows _ i))
  · exact (clearClaim_noMoreRows s i).trans (endClaims_noMoreRows _ i)

theorem recheckClaims_noMoreRows (s : State) : NoMoreRows s s.recheckClaims :=
  .eachOwned s fun i t => .ite (fun _ => withdrawClaim_noMoreRows t i) fun _ => .refl t

/-- An entry written is one row more at the most (R67, R68). -/
theorem writeEntry_rowsLeft (target : Nat) (s : State) (src : Address) (g f dwell : Nat) :
    (s.writeEntry src g f dwell).rowsLeft target ≤ s.rowsLeft target + 1 := by
  have h := List.length_filter_le (fun e => !e.isOf src g) s.sdu.table
  simp only [State.rowsLeft, Sdu.rowsLeft, State.writeEntry, List.length_append, List.length_singleton]
  omega

/-- A head that opens its valve may no longer claim: one row is left where there were two (R19). -/
theorem reportAdmission_rowsLeft (target : Nat) {s : State} {i : LocalHead} (h : s.mayClaim i = true) (dwell : Nat)
    (x : Bool) : (s.reportAdmission i dwell x).rowsLeft target + 1 ≤ s.rowsLeft target := by
  have hclaiming : (s.head i).rowsLeft = 2 := by
    unfold Head.rowsLeft
    rw [((mayClaim_iff s i).1 h).1]
  have hopened : ((s.head i).openFor s.now dwell x).rowsLeft = 1 := rfl
  have hopens := rowsLeft_updHead target s i fun h => h.openFor s.now dwell x
  have hjog := (markJog_noMoreRows (s.updHead i fun h => h.openFor s.now dwell x) i).2 target
  unfold State.reportAdmission
  rw [if_pos h]
  omega

/-- A claim of a head that may claim: what it writes into the table the head no longer has before it (R70, R85). -/
theorem announce_noMoreRows {s : State} {i : LocalHead} (h : s.mayClaim i = true) {c : Claim}
    (hc : c.state = .queued) : NoMoreRows s (s.announce i c) := by
  have hset (t : State) {d : Claim} (hd : d.state = .queued) : NoMoreRows t (t.updClaim i fun _ => d) :=
    updClaim_noMoreRows (Or.inl (by simp [retryEnd, hd]))
  unfold State.announce
  dsimp only
  refine .ite (fun _ => .ite (fun _ => ?admitted) fun _ => ?refused) fun _ => ?queued
  case admitted =>
    let written := s.writeEntry s.addr (s.globalHead i) c.units c.dwell
    let taken := written.updClaim i fun _ => { c with admittedLocally := true }
    have hopened : NoMoreRows s (taken.reportAdmission i c.dwell c.extension) := by
      refine ⟨(reportAdmission_only taken i _ _).keeps .now (by simp [reporting]), fun target => ?_⟩
      have hwritten : written.rowsLeft target ≤ s.rowsLeft target + 1 := writeEntry_rowsLeft target s _ _ _ _
      have htaken : taken.rowsLeft target ≤ written.rowsLeft target :=
        (hset written (d := { c with admittedLocally := true }) hc).2 target
      have hopen := reportAdmission_rowsLeft target (s := taken) h c.dwell c.extension
      omega
    exact hopened.trans (handIn_noMoreRows _ _)
  case refused =>
    exact (hset s hc).trans ((NoMoreRows.of_only (count_claimsRefused_only _ _) (by decide)).trans
      (claimRefused_noMoreRows _ i))
  case queued => exact (hset s hc).trans (handIn_noMoreRows _ _)

theorem formClaim_noMoreRows {s : State} {i : LocalHead} (h : s.mayClaim i = true) : NoMoreRows s (s.formClaim i) := by
  rcases Nat.lt_or_ge (s.callDwell i) (s.profile (s.head i).profile).Dmin with hd | hd
  · rw [formClaim_tooShort hd]
    exact (clearClaim_noMoreRows s i).trans (updHead_noMoreRows le_rfl)
  · rw [formClaim_called hd]
    have hcalled : NoMoreRows s (s.called i) := updHead_noMoreRows le_rfl
    exact hcalled.trans (announce_noMoreRows ((called_mayClaim s i).trans h) rfl)

/-! ## The drive link and the end of a cycle -/

theorem sendHeadState_noMoreRows (s : State) (i : LocalHead) (o : Occasion) : NoMoreRows s (s.sendHeadState i o) :=
  handIn_noMoreRows s _

theorem benchHead_noMoreRows (s : State) (i : LocalHead) (r : BenchReason) : NoMoreRows s (s.benchHead i r) :=
  .ite (fun _ => .refl s) fun _ => (updHead_noMoreRows le_rfl).trans ((withdrawClaim_noMoreRows _ i).trans
    ((latch_noMoreRows _ _).trans (sendHeadState_noMoreRows _ i _)))

theorem driveFailed_noMoreRows (s : State) (i : LocalHead) : NoMoreRows s (s.driveFailed i) := by
  have hcount : NoMoreRows s
      (s.updHead i fun h => { h with driveFailures := min Config.failureMax (h.driveFailures + 1) }) :=
    updHead_noMoreRows le_rfl
  exact .ite (fun _ => hcount.trans ((latch_noMoreRows _ _).trans (benchHead_noMoreRows _ i _))) fun _ => hcount

/-- An entry handed off is one row more at the most: an eviction makes room for it (R126, R127, R128). -/
theorem handOff_rowsLeft (target : Nat) (s : State) (e : AwaitingEntry) :
    (s.handOff e).rowsLeft target ≤ s.rowsLeft target + 1 := by
  have hset {l : List AwaitingEntry} (hl : l.length ≤ s.vu.awaiting.length + 1) :
      ({ s with vu := { s.vu with awaiting := l } } : State).rowsLeft target ≤ s.rowsLeft target + 1 := by
    simp only [State.rowsLeft]
    omega
  unfold State.handOff
  split
  · exact hset (by simp)
  · have hlater : ∀ t : State, NoMoreRows t ((t.count fun c => { c with evictions := bump c.evictions }).latch
        .verdictEvicted) := fun t =>
      (NoMoreRows.of_only (count_evictions_only t _) (by decide)).trans (latch_noMoreRows _ _)
    exact ((hlater _).2 target).trans (hset (by simp))

theorem handOffJar_rowsLeft (target : Nat) (s : State) (i : LocalHead) (o : JarOutcome) :
    (s.handOffJar i o).rowsLeft target ≤ s.rowsLeft target + 1 := by
  unfold State.handOffJar
  split
  · exact handOff_rowsLeft target s _
  · exact Nat.le_succ _

theorem detachCycle_noMoreRows (s : State) (i : LocalHead) : NoMoreRows s (s.detachCycle i) := by
  refine ⟨rfl, fun target => le_of_eq ?_⟩
  simp only [State.rowsLeft, Dlc.rowsLeft, State.detachCycle, occupied, Option.isSome_map]

/-- The end of a cycle in RELEASING: the entry it may hand off is the row the head had before it (R122). -/
theorem finish_noMoreRows {s : State} {i : LocalHead} (h : (s.head i).phase = .releasing) (o : JarOutcome)
    (torque angle : Nat) : NoMoreRows s (s.finish i o torque angle) := by
  refine ⟨(finish_only s i o torque angle).keeps .now (by simp [finishPieces, handOffPieces, reporting]),
    fun target => ?_⟩
  let v := s.reportJar i true (s.jarReport i o torque angle)
  have hreport : NoMoreRows s v := (updCounters_noMoreRows s i _).trans (handIn_noMoreRows _ _)
  have hhead : (v.handOffJar i o).head i = s.head i :=
    (head_of_only (handOffJar_only v i o) i (by simp [handOffPieces, reporting])).trans
      (head_of_only (reportJar_only s i _ _) i (by simp [reporting]))
  have hreleasing : (s.head i).rowsLeft = 1 := by
    unfold Head.rowsLeft
    rw [h]
  have hidle : (s.head i).endCycle.rowsLeft = 0 := rfl
  have hended := rowsLeft_updHead target (v.handOffJar i o) i Head.endCycle
  rw [hhead, hreleasing, hidle] at hended
  calc (s.finish i o torque angle).rowsLeft target
      ≤ ((v.handOffJar i o).updHead i Head.endCycle).rowsLeft target := (detachCycle_noMoreRows _ i).2 target
    _ ≤ v.rowsLeft target := by
      have := handOffJar_rowsLeft target v i o
      omega
    _ ≤ s.rowsLeft target := hreport.2 target

end Sys2Proof.Machine
end

section
/-!
Each timed row that is due lowers the measure when it is taken, so the rows due come to an end before the fuel of the
clock does; and the statement (O4).
-/
namespace Sys2Proof.Machine

/-! ## The measure and the clock -/

theorem rowsLeft_setNow_le (target : Nat) {s : State} {t : Nat} (h : s.now ≤ t) :
    (s.setNow t).rowsLeft target ≤ s.rowsLeft target := by
  have hrenewal := waitEnds_later h target Config.renewalWait s.sdu.renewal
  have hclaims : (s.sdu.claims.total fun c => waitEnds target t Config.retryWait (retryEnd c))
      ≤ s.sdu.claims.total fun c => waitEnds target s.now Config.retryWait (retryEnd c) :=
    PerHead.total_le_total fun i => waitEnds_later h target Config.retryWait _
  have hjoin := waitEnds_later h target Config.joinInterval s.sc.joinTimer
  simp only [State.rowsLeft, Sdu.rowsLeft, Sc.rowsLeft, State.setNow]
  omega

/-- What brings no more rows after a state with fewer leaves fewer. -/
theorem NoMoreRows.rowsLeft_lt {target : Nat} {s v t : State} (h : NoMoreRows v t)
    (hv : v.rowsLeft target < s.rowsLeft target) : t.rowsLeft target < s.rowsLeft target :=
  Nat.lt_of_le_of_lt (h.2 target) hv

/-! ## Turret -/

theorem pitchTimeout_rowsLeft (target : Nat) {s : State} (h : s.pitchTimeoutDue = true)
    (hp : s.ttu.tPitch ≠ 4000000) : s.pitchTimeout.rowsLeft target < s.rowsLeft target := by
  have hruns : (s.ttu.tPitch != Config.turretStopped) = true := bne_iff_ne.2 hp
  have hstopped : s.stopped.rowsLeft target < s.rowsLeft target := by
    simp only [State.rowsLeft, State.stopped, Ttu.rowsLeft, hruns, bne_self_eq_false, Bool.toNat_true, Bool.toNat_false]
    omega
  rw [pitchTimeout_due h]
  exact (recheckClaims_noMoreRows s.stopped).rowsLeft_lt hstopped

theorem coldStop_rowsLeft (target : Nat) {s : State} (h : s.coldStopDue = true) :
    s.coldStop.rowsLeft target < s.rowsLeft target := by
  have hfires : (!s.ttu.coldFired || s.ttu.coldWaits) = true := by
    rcases ((coldStopDue_iff s).1 h).2 with hw | ⟨hf, -⟩
    · simp [hw]
    · simp [hf]
  unfold State.coldStop
  rw [if_pos h]
  refine (NoMoreRows.eachOwned _ fun i t => updHead_noMoreRows le_rfl).rowsLeft_lt ?_
  simp only [State.rowsLeft, Ttu.rowsLeft, hfires, Bool.not_true, Bool.or_false, Bool.toNat_true, Bool.toNat_false]
  omega

/-! ## Heads -/

theorem closeValve_rowsLeft (target : Nat) {s : State} {i : LocalHead} (hp : (s.head i).phase = .flushing)
    (ho : (s.head i).valveOpen = true) : (s.closeValve i).rowsLeft target < s.rowsLeft target := by
  refine (handIn_noMoreRows _ _).rowsLeft_lt ?_
  have hclosed := rowsLeft_updHead target s i fun h => { h with valveOpen := false, applied := s.openTime i }
  simp only [Head.rowsLeft, hp, ho, Bool.toNat_true, Bool.toNat_false] at hclosed
  omega

theorem valveCloseTime_rowsLeft (target : Nat) {s : State} {i : LocalHead} (h : s.valveCloseDue i = true) :
    (s.valveCloseTime i).rowsLeft target < s.rowsLeft target := by
  have hhead : (s.markJog i).head i = { s.head i with flags := s.withJog (s.head i).flags } := by
    rw [markJog_eq, State.head_updHead_same]
  obtain ⟨hphase, hopen, -⟩ := (valveCloseDue_iff s i).1 h
  have hclosed := closeValve_rowsLeft target (s := s.markJog i) (i := i) (by rw [hhead]; exact hphase)
    (by rw [hhead]; exact hopen)
  unfold State.valveCloseTime
  rw [if_pos h]
  exact Nat.lt_of_lt_of_le hclosed ((markJog_noMoreRows s i).2 target)

/-- The end of a retry wait is one end less, whether a claim is formed then or not (R72). -/
theorem claimRetry_rowsLeft {target : Nat} {s : State} {i : LocalHead} {w : Nat} (h : (s.claim i).state = .retry w)
    (hw : w ≤ s.now) (ht : s.now < target) : (s.claimRetry i).rowsLeft target < s.rowsLeft target := by
  have hcleared := rowsLeft_updClaim target s i fun _ => .clear
  have hend : waitEnds target s.now Config.retryWait none + 1
      = waitEnds target s.now Config.retryWait (retryEnd (s.claim i)) := by
    rw [retryEnd_eq_some.2 h]
    exact waitEnds_reached (by decide) hw ht
  have hnone : retryEnd Claim.clear = none := rfl
  rw [hnone] at hcleared
  rw [claimRetry_retry h, if_pos hw]
  split
  · next hm =>
    have hformed := (formClaim_noMoreRows (s := s.updClaim i fun _ => .clear) hm).2 target
    omega
  · omega

/-- A request made is two rows more at the most: its grant and the end of its transaction (R96, R97). -/
theorem request_rowsLeft (d : DriveSlot) (r : DriveRequest) : (d.request r).rowsLeft ≤ d.rowsLeft + 2 := by
  unfold DriveSlot.request
  split <;> simp only [DriveSlot.rowsLeft, occupied_some] <;> omega

theorem resultWaitExpiry_rowsLeft (target : Nat) {s : State} {i : LocalHead} {w : Nat}
    (h : (s.slot i).resultWait = some w) (hw : w ≤ s.now) :
    (s.resultWaitExpiry i).rowsLeft target < s.rowsLeft target := by
  have hended : ({ s.slot i with resultWait := none } : DriveSlot).rowsLeft + 3 = (s.slot i).rowsLeft := by
    simp only [DriveSlot.rowsLeft, h, occupied_some, occupied_none]
  have hrequest := request_rowsLeft { s.slot i with resultWait := none } .result
  have hslot := rowsLeft_updSlot target s i fun d => ({ d with resultWait := none } : DriveSlot).request .result
  rw [resultWaitExpiry_due h hw]
  dsimp only at hended hrequest hslot
  omega

/-! ## Steam -/

theorem drawEntryExpiry_rowsLeft (target : Nat) {s : State} {e : DrawEntry} (he : e ∈ s.sdu.table)
    (h : e.endAt ≤ s.now) : (s.drawEntryExpiry e.src e.head).rowsLeft target < s.rowsLeft target := by
  have hlt : (s.sdu.table.filter fun x => !(x.isOf e.src e.head && decide (x.endAt ≤ s.now))).length
      < s.sdu.table.length :=
    List.length_filter_lt_length_iff_exists.2 ⟨e, he, by simp [DrawEntry.isOf, h]⟩
  simp only [State.rowsLeft, Sdu.rowsLeft, State.drawEntryExpiry]
  omega

theorem holdExpiry_rowsLeft (target : Nat) {s : State} {w : Nat} (h : s.sdu.hold = some w) (hw : w ≤ s.now) :
    s.holdExpiry.rowsLeft target < s.rowsLeft target := by
  let ended : State := { s with sdu := { s.sdu with hold := none } }
  have hended : ended.rowsLeft target < s.rowsLeft target := by
    simp only [ended, State.rowsLeft, Sdu.rowsLeft, h, occupied_some, occupied_none]
    omega
  have hsent : NoMoreRows ended s.holdExpiry := by
    rw [holdExpiry_reached ⟨w, h, hw⟩]
    exact .ite (fun _ => handIn_noMoreRows ended _) fun _ => .refl ended
  exact hsent.rowsLeft_lt hended

/-- The end of a renewal is one end less, whether a further hold is sent, and dropped, or not (R83). -/
theorem holdRenewal_rowsLeft {target : Nat} {s : State} {w : Nat} (h : s.sdu.renewal = some w) (hw : w ≤ s.now)
    (ht : s.now < target) : s.holdRenewal.rowsLeft target < s.rowsLeft target := by
  let lapsed : State := { s with sdu := { s.sdu with renewal := none } }
  have hend := waitEnds_reached (wait := Config.renewalWait) (by decide) hw ht
  have hlapsed : lapsed.rowsLeft target < s.rowsLeft target := by
    simp only [lapsed, State.rowsLeft, Sdu.rowsLeft, h]
    omega
  have hsent : NoMoreRows lapsed s.holdRenewal := by
    rw [holdRenewal_reached ⟨w, h, hw⟩]
    exact .ite (fun _ => handIn_noMoreRows lapsed _) fun _ => .refl lapsed
  exact hsent.rowsLeft_lt hlapsed

/-- A sample takes the filtered level, and is due no more (R80). -/
theorem stloSample_rowsLeft (target : Nat) {s : State} (h : s.sdu.stloInput ≠ s.sdu.stlo) :
    s.stloSample.rowsLeft target < s.rowsLeft target := by
  let taken : State := { s with sdu := { s.sdu with stlo := s.sdu.stloInput } }
  have hdue : (s.sdu.stloInput != s.sdu.stlo) = true := bne_iff_ne.2 h
  have htaken : taken.rowsLeft target < s.rowsLeft target := by
    simp only [taken, State.rowsLeft, Sdu.rowsLeft, hdue, bne_self_eq_false, Bool.toNat_true, Bool.toNat_false]
    omega
  have hsample : NoMoreRows taken s.stloSample := by
    cases hi : s.sdu.stloInput <;> cases hl : s.sdu.stlo
    case high.high | low.low => exact absurd (hi.trans hl.symm) h
    case high.low =>
      rw [stloSample_rise hi hl, ← hi]
      exact .refl taken
    case low.high =>
      have hfallen : NoMoreRows taken s.fallen := by
        unfold State.fallen
        rw [← hi]
        exact latch_noMoreRows taken _
      rw [stloSample_fall hi hl]
      exact .ite (fun _ => hfallen.trans (handIn_noMoreRows _ _)) fun _ => hfallen
  exact hsample.rowsLeft_lt htaken

theorem silenceDue_reached {s : State} (hm : s.sc.mode = .running ∨ s.sc.mode = .jog) (hi : s.sdu.isolated = false)
    (h : s.lbi.silenceStart + 250000 ≤ s.now) : s.silenceDue = true := by
  refine (silenceDue_iff s).2 ⟨hm, hi, le_min (by decide) ?_⟩
  exact (Nat.le_div_iff_mul_le (by decide)).2 (Nat.le_sub_of_add_le (by rw [Nat.add_comm]; exact h))

theorem silenceThreshold_rowsLeft (target : Nat) {s : State} (h : s.silenceDue = true) :
    s.silenceThreshold.rowsLeft target < s.rowsLeft target := by
  obtain ⟨-, hi, -⟩ := (silenceDue_iff s).1 h
  unfold State.silenceThreshold
  rw [if_pos h]
  refine (latch_noMoreRows _ _).rowsLeft_lt ?_
  simp only [State.rowsLeft, Sdu.rowsLeft, hi, Bool.not_true, Bool.not_false, Bool.toNat_true, Bool.toNat_false]
  omega

theorem relistenEnd_rowsLeft (target : Nat) {s : State} {w : Nat} (h : s.sdu.relisten = some w) (hw : w ≤ s.now) :
    s.relistenEnd.rowsLeft target < s.rowsLeft target := by
  unfold State.relistenEnd
  rw [if_pos ((reached_iff _ _).2 ⟨w, h, hw⟩)]
  simp only [State.rowsLeft, Sdu.rowsLeft, h, occupied_some, occupied_none]
  omega

/-! ## The drive link -/

/-- A grant takes a request from its head (R97, R99). -/
theorem grant_rowsLeft {d : DriveSlot} {r : DriveRequest} (h : d.pending = some r) :
    d.grant.rowsLeft + 2 = d.rowsLeft := by
  rw [grant_eq h]
  split <;> simp only [DriveSlot.rowsLeft, h, occupied_some, occupied_none] <;> omega

/-- A request granted has the end of its transaction before it, and no longer its grant. -/
theorem driveGrant_rowsLeft (target : Nat) {s : State} (hc : s.dlc.current = none)
    (hp : ∃ i, (s.slot i).pending ≠ none) : s.driveGrant.rowsLeft target < s.rowsLeft target := by
  obtain ⟨i, hi⟩ := Option.isSome_iff_exists.1 (granted_isSome.2 hp)
  obtain ⟨r, hr⟩ := granted_pending hi
  let running : State := { s with dlc := { s.dlc with current := some (s.transactionOf i r) } }
  have hrunning : running.rowsLeft target = s.rowsLeft target + 1 := by
    simp only [running, State.rowsLeft, Dlc.rowsLeft, hc, occupied_some, occupied_none]
    omega
  have hslot := rowsLeft_updSlot target running i DriveSlot.grant
  have hgrant := grant_rowsLeft hr
  rw [show running.slot i = s.slot i from rfl] at hslot
  rw [driveGrant_some hc hi hr]
  change (running.updSlot i DriveSlot.grant).rowsLeft target < _
  omega

/-- The reply read where no drive answers is a failure, whatever was asked (R93, R94). -/
theorem judgeReply_absent (k : DriveKind) : judgeReply k absentReply = .failure := by
  cases k <;> decide

/-- A completion of class failure sets a flag at the most, or ends a cycle in RELEASING (R101). -/
theorem applyCompletion_noMoreRows {s : State} {i : LocalHead} {k : DriveKind}
    (h : k = .result → (s.head i).phase = .releasing) (torque angle : Nat) :
    NoMoreRows s (s.applyCompletion i k .failure torque angle) := by
  have hjog := markJog_noMoreRows s i
  cases k with
  | setup => exact hjog
  | start => exact hjog.trans (flag_noMoreRows _ i _)
  | stop => exact .refl s
  | result =>
    have hphase : (((s.markJog i).flag i .driveFault).head i).phase = .releasing := by
      rw [markJog_eq, State.flag, State.head_updHead_same, State.head_updHead_same]
      exact h rfl
    exact hjog.trans ((flag_noMoreRows _ i _).trans (finish_noMoreRows hphase _ 0 0))

/-- The end of a transaction is a row less, and what it brings about is none more. -/
theorem transactionEnd_rowsLeft (target : Nat) {s : State} {x : Transaction} (hx : s.dlc.current = some x)
    (h : x.endsAt ≤ s.now) : s.transactionEnd.rowsLeft target < s.rowsLeft target := by
  have hidle : s.linkIdle.rowsLeft target < s.rowsLeft target := by
    simp only [State.linkIdle, State.rowsLeft, Dlc.rowsLeft, hx, occupied_some, occupied_none]
    omega
  have hcount : NoMoreRows s.linkIdle (s.linkIdle.countCompletion x.head .failure) := driveFailed_noMoreRows _ _
  have hcomplete : NoMoreRows s.linkIdle (s.complete x absentReply) := by
    by_cases ha : s.completionApplies x = true
    · rw [complete_applied ha, judgeReply_absent]
      refine hcount.trans (applyCompletion_noMoreRows (fun hk => ?_) _ _)
      have hphase := ((completionApplies_iff s x).1 ha).2.2 hk
      exact (countCompletion_sameCycle s.linkIdle x.head .failure).phase.trans hphase
    · unfold State.complete
      rw [if_neg ha, judgeReply_absent]
      exact hcount
  unfold State.transactionEnd
  rw [transactionComplete_due hx h]
  exact hcomplete.rowsLeft_lt hidle

/-! ## Verdicts and the join -/

theorem noVerdict_noMoreRows (s : State) : NoMoreRows s s.noVerdict :=
  .of_only (noVerdict_only s) (by decide)

theorem verdictExpiry_rowsLeft (target : Nat) {s : State} {e : AwaitingEntry} (he : e ∈ s.vu.awaiting.head?)
    (h : e.cappedAt + s.setup.Lv * 1000000 ≤ s.now) : s.verdictExpiry.rowsLeft target < s.rowsLeft target := by
  obtain ⟨rest, ha⟩ := List.head?_eq_some_iff.1 he
  have hx : s.entryExpired e = true := decide_eq_true h
  let taken : State := { s with vu := { s.vu with awaiting := rest } }
  have htaken : taken.rowsLeft target < s.rowsLeft target := by
    simp only [taken, State.rowsLeft, ha, List.length_cons]
    omega
  unfold State.verdictExpiry
  rw [ha]
  dsimp only
  rw [if_pos hx]
  refine NoMoreRows.rowsLeft_lt (v := taken) (NoMoreRows.trans ?_ (noVerdict_noMoreRows _)) htaken
  split
  · exact updCounters_noMoreRows taken _ _
  · exact .refl taken

theorem sendJoin_noMoreRows (s : State) : NoMoreRows s s.sendJoin :=
  handIn_noMoreRows s _

theorem joinTimer_rowsLeft {target : Nat} {s : State} {w : Nat} (hj : s.joined = false) (h : s.sc.joinTimer = some w)
    (hw : w ≤ s.now) (ht : s.now < target) : s.joinTimer.rowsLeft target < s.rowsLeft target := by
  obtain ⟨hnow, hsent⟩ := sendJoin_noMoreRows s
  have htimer : s.sendJoin.sc.joinTimer = some w := ((sendJoin_only s).keeps .joining (by decide)).1.trans h
  have hend := waitEnds_reached (wait := Config.joinInterval) (by decide) hw ht
  rw [joinTimer_due hj ⟨w, h, hw⟩]
  refine Nat.lt_of_lt_of_le ?_ (hsent target)
  simp only [State.sendTimedJoin, State.rowsLeft, Sc.rowsLeft, htimer, hnow, waitEnds_anew]
  omega

/-- A join begins with everything at rest: a cold stop, a sample and a silence are all that it can bring anew (R1, R64,
R90, R125, R176). -/
theorem joinedState_rowsLeft (target : Nat) (s : State) : s.joinedState.rowsLeft target ≤ s.rowsLeft target + 3 := by
  have hsample := Bool.toNat_le (s.sdu.stloInput != .high)
  have hrenewal := waitEnds_none_le target s.now Config.renewalWait s.sdu.renewal
  have hjoin := waitEnds_none_le target s.now Config.joinInterval s.sc.joinTimer
  have hclaims : ((PerHead.all Claim.clear).total fun c => waitEnds target s.now Config.retryWait (retryEnd c))
      ≤ s.sdu.claims.total fun c => waitEnds target s.now Config.retryWait (retryEnd c) :=
    PerHead.total_le_total fun i => by
      rw [PerHead.get_all]
      exact waitEnds_none_le target s.now _ _
  have hslots : (PerHead.all DriveSlot.empty).total DriveSlot.rowsLeft = 0 := rfl
  have httu : (Ttu.atReset s.now).rowsLeft = 1 := rfl
  simp only [State.rowsLeft, State.joinedState, Sdu.rowsLeft, Sdu.onJoin, Sdu.atReset, Dlc.rowsLeft, Dlc.atReset,
    Vu.onJoin, Sc.rowsLeft, httu, hslots, List.length_nil, occupied_none, Bool.not_false, Bool.toNat_true]
  omega

theorem tryJoin_rowsLeft (target : Nat) (s : State) : s.tryJoin.rowsLeft target ≤ s.rowsLeft target + 3 := by
  have hmask : NoMoreRows s.joinedState s.leaveJoining :=
    (NoMoreRows.of_only (changeMask_only _ _) (by decide)).trans (sendJoin_noMoreRows _)
  unfold State.tryJoin
  split
  · exact (hmask.2 target).trans (joinedState_rowsLeft target s)
  · exact Nat.le_add_right _ _

theorem joinWindowPass_rowsLeft (target : Nat) {s : State} {w : Nat} (h : s.sc.window = .running w) (hw : w ≤ s.now) :
    s.joinWindowPass.rowsLeft target < s.rowsLeft target := by
  let passed : State := { s with sc := { s.sc with window := .passed } }
  have hpassed : passed.rowsLeft target + 4 = s.rowsLeft target := by
    simp only [passed, State.rowsLeft, Sc.rowsLeft, h, JoinWindow.rowsLeft]
    omega
  have hjoin := tryJoin_rowsLeft target passed
  rw [joinWindowPass_due h hw]
  exact Nat.lt_of_le_of_lt hjoin (by omega)

/-! ## Every row -/

/-- A row that is due before a moment lowers the measure when it is taken at its time. -/
theorem fire_rowsLeft {target : Nat} {s : State} {d : Nat} {e : TimedEvent} (h : s.isDue d e)
    (ht : max s.now d < target) : (e.fire (s.setNow (max s.now d))).rowsLeft target < s.rowsLeft target := by
  refine Nat.lt_of_lt_of_le ?_ (rowsLeft_setNow_le target (le_max_left s.now d))
  have hd : d ≤ (s.setNow (max s.now d)).now := le_max_right s.now d
  have hnow : (s.setNow (max s.now d)).now < target := ht
  cases e with
  | pitchTimeout =>
    obtain ⟨hj, hcount, hp, rfl⟩ := h
    exact pitchTimeout_rowsLeft target ((pitchTimeoutDue_iff _).2 ⟨hj, hcount, hd⟩) hp
  | coldStop =>
    obtain ⟨hj, ⟨hf, rfl⟩ | ⟨hw, -⟩⟩ := h
    · exact coldStop_rowsLeft target ((coldStopDue_iff _).2 ⟨hj, Or.inr ⟨hf, hd⟩⟩)
    · exact coldStop_rowsLeft target ((coldStopDue_iff _).2 ⟨hj, Or.inl hw⟩)
  | valveClose i =>
    obtain ⟨hphase, hopen, rfl⟩ := h
    exact valveCloseTime_rowsLeft target ((valveCloseDue_iff _ i).2 ⟨hphase, hopen, hd⟩)
  | claimRetry i => exact claimRetry_rowsLeft h hd hnow
  | drawExpiry src g =>
    obtain ⟨x, hx, rfl, rfl, rfl⟩ := h
    exact drawEntryExpiry_rowsLeft target hx hd
  | holdExpiry => exact holdExpiry_rowsLeft target h hd
  | holdRenewal => exact holdRenewal_rowsLeft h hd hnow
  | stloSample => exact stloSample_rowsLeft target h.1
  | silence =>
    obtain ⟨hm, hi, rfl⟩ := h
    exact silenceThreshold_rowsLeft target (silenceDue_reached hm hi hd)
  | relistenEnd => exact relistenEnd_rowsLeft target h hd
  | transactionEnd =>
    obtain ⟨x, hx, rfl⟩ := h
    exact transactionEnd_rowsLeft target hx hd
  | driveGrant =>
    obtain ⟨hc, hp, -⟩ := h
    exact driveGrant_rowsLeft target hc hp
  | resultWait i => exact resultWaitExpiry_rowsLeft target h hd
  | verdictExpiry =>
    obtain ⟨x, hx, rfl⟩ := h
    exact verdictExpiry_rowsLeft target hx hd
  | joinTimer =>
    obtain ⟨hj, hw⟩ := h
    exact joinTimer_rowsLeft hj hw hd hnow
  | joinWindow => exact joinWindowPass_rowsLeft target h hd

/-! ## The rows that are taken -/

/-- The rows due before a moment can all be taken, and the measure bounds their number. -/
theorem exists_takesRows {target : Nat} {s : State} (hnow : s.now < target) :
    ∃ rows u, rows.length ≤ s.rowsLeft target ∧ s.takesRows target rows u := by
  induction hn : s.rowsLeft target using Nat.strong_induction_on generalizing s with
  | _ n ih =>
    cases he : earliest s.timers with
    | none => exact ⟨[], s, Nat.zero_le _, rfl, by simp [earliest_eq_none.1 he]⟩
    | some x =>
      obtain ⟨hmem, hleast, -⟩ := earliest_first he
      rcases Nat.lt_or_ge x.1 target with hx | hx
      · have hmax : max s.now x.1 < target := max_lt hnow hx
        have hfewer := fire_rowsLeft (mem_timers.1 hmem).2 hmax
        obtain ⟨rows, u, hlength, htaken⟩ := ih _ (hn ▸ hfewer) ((fire_now _ _).trans_lt hmax) rfl
        refine ⟨x :: rows, u, ?_, he, hx, htaken⟩
        rw [List.length_cons]
        omega
      · exact ⟨[], s, Nat.zero_le _, rfl, fun y hy => hx.trans (hleast y hy)⟩

/-- Of the rows of a state at a later moment only those of that moment are new. -/
theorem isDue_setNow {s : State} {t d : Nat} {e : TimedEvent} (h : (s.setNow t).isDue d e) : s.isDue d e ∨ d = t := by
  cases e with
  | stloSample => exact Or.inr h.2
  | driveGrant => exact Or.inr h.2.2
  | coldStop =>
    obtain ⟨hj, hf | ⟨-, hd⟩⟩ := h
    · exact Or.inl ⟨hj, Or.inl hf⟩
    · exact Or.inr hd
  | pitchTimeout | valveClose | claimRetry | drawExpiry | holdExpiry | holdRenewal | silence | relistenEnd
  | transactionEnd | resultWait | verdictExpiry | joinTimer | joinWindow => exact Or.inl h

theorem timers_setNow_late {s : State} {target : Nat} (h : ∀ y ∈ s.timers, target ≤ y.1) :
    ∀ y ∈ (s.setNow target).timers, target ≤ y.1 := by
  rintro ⟨d, e⟩ hy
  obtain ⟨hlive, hdue⟩ := mem_timers.1 hy
  rcases isDue_setNow hdue with hdue | rfl
  · exact h _ (mem_timers.2 ⟨hlive, hdue⟩)
  · exact le_rfl

theorem takesRows_late {target : Nat} {rows : List (Nat × TimedEvent)} {s u : State} (h : s.takesRows target rows u) :
    ∀ y ∈ u.timers, target ≤ y.1 := by
  induction rows generalizing s with
  | nil =>
    obtain ⟨rfl, hlate⟩ := takesRows_nil.1 h
    exact hlate
  | cons x rows ih => exact ih (takesRows_cons.1 h).2.2

/-- Settles O4: the measure bounds the rows due by the fuel of the clock, so they are all taken. -/
theorem noTimedRowIsLeftBehind : Obligations.NoTimedRowIsLeftBehind := by
  intro s dt hs hdt
  obtain ⟨rows, u, hfew, htaken⟩ := exists_takesRows (Nat.lt_add_of_pos_right (n := s.now) hdt)
  have hlength := hfew.trans (rowsLeft_le hs dt)
  have helapse := elapse_of_takesRows hdt hlength htaken
  refine ⟨?_, rows, u, hlength, htaken, helapse⟩
  rw [helapse]
  exact timers_setNow_late (takesRows_late htaken)

end Sys2Proof.Machine
end
